-- ==== Sys2Proof/Word.lean ====
section
/-! DEFINITION. The byte and the byte sequence of `00_scope.md` rules R10 and R11. -/

namespace Sys2Proof

/-- A byte: 8 bits, value 0..255 (R10). -/
abbrev Byte := BitVec 8

/-- A byte sequence: a payload, a buffer, a queued message (R11). -/
abbrev Bytes := List Byte

end Sys2Proof
end

