-- ==== Sys2Proof/Config.lean ====
section
/-! DEFINITION. The parameters `00_scope.md` rule R9 fixes. The three it leaves OPEN (`blocksize`, `stminMs`, `wftMax`)
are operands of RESET, not constants. -/

namespace Sys2Proof.Config

/-- `MAX_DL_CLASSIC`: payload capacity of a classic CAN frame. -/
abbrev maxDlClassic : Nat := 8

/-- `MAX_DL_FD`: payload capacity of a CAN FD frame. -/
abbrev maxDlFd : Nat := 64

/-- `SF_DL_SHORT_MAX`: largest payload with a 1-byte single-frame PCI. -/
abbrev sfDlShortMax : Nat := 7

/-- `FF_DL_SHORT_MAX`: largest length in the 12-bit first-frame form. -/
abbrev ffDlShortMax : Nat := 4095

/-- `MSG_LEN_MAX`: largest message length (decision D5). -/
abbrev msgLenMax : Nat := 2 ^ 32 - 1

/-- `FD_LEN_SET`: the payload lengths above 8 that may be emitted (decision D12). -/
abbrev fdLenSet : List Nat := [12, 16, 20, 24, 32, 48, 64]

/-- Reset value of `C.padByte` (R9, R40). -/
abbrev padByteReset : Byte := 0xCC

/-- Reset value of `C.cfTimeoutMs` and of `C.fcTimeoutMs` (R9, R43). -/
abbrev timeoutMsReset : Nat := 1000

/-- `ms(n)`: a duration of `n` milliseconds in microseconds (R16). -/
def ms (n : Nat) : Nat := 1000 * n

end Sys2Proof.Config
end

