-- ==== Sys2Proof/Syntax.lean ====
section
/-! DEFINITION. What crosses the ports of the block and what it decodes: addresses, raw frames, decoded frames,
host commands, and the sixteen instructions of `spec/opcode_table.json`. -/

namespace Sys2Proof

/-- The five addressing modes (R45, R170). -/
inductive AddrMode where
  | normal11Bit | normal29Bit | normalFixed | extended | mixed
  deriving DecidableEq, Repr

/-- The Address record (R45): also the `addrCfg` operand of RESET (R301). `ext` and `id29` mean something only in modes
Extended and Mixed. -/
structure Address where
  mode : AddrMode
  txId : Nat
  rxId : Nat
  ext  : Option Byte
  id29 : Bool
  deriving DecidableEq, Repr

/-- Physical (1:1) or functional (1:N) addressing (R173). -/
inductive AddressType where
  | physical | functional
  deriving DecidableEq, Repr

/-- The `cfg` operand of RESET (R301): values as the host offers them, before the range checks; the last three optional. -/
structure CfgArgs where
  blocksize   : Nat
  stminMs     : Nat
  wftMax      : Nat
  cfTimeoutMs : Option Nat
  fcTimeoutMs : Option Nat
  padByte     : Option Nat
  deriving DecidableEq, Repr

/-- A RawFrame, the unit the adapter moves (R100). -/
structure RawFrame where
  id   : Nat
  data : Bytes
  fd   : Bool
  deriving DecidableEq, Repr

/-- The three flow statuses (R105, R109). -/
inductive FlowStatus where
  | continueToSend | wait | overflow
  deriving DecidableEq, Repr

/-- The content of a FlowControlFrame (R105): the separation time is already decoded to microseconds. -/
structure FlowControl where
  flowStatus : FlowStatus
  blockSize  : Byte
  stminUs    : Nat
  deriving DecidableEq, Repr

/-- The decoded Frame (R105): the variant does not record which PCI width it came in. -/
inductive Frame where
  | single      (data : Bytes)
  | first       (totalSize : Nat) (data : Bytes)
  | consecutive (sequenceNumber : BitVec 4) (data : Bytes)
  | flowControl (fc : FlowControl)
  deriving DecidableEq, Repr

/-- The seven sub-codes of a parse error (R130, R332). -/
inductive ParseError where
  | payloadTooShort | unsupportedPciType | zeroLengthSingleFrame | lengthExceedsPayload
  | invalidLength | invalidFlowStatus | invalidStmin
  deriving DecidableEq, Repr

/-- The three construction errors (R176, R345). -/
inductive AddrError where
  | idOutOfRange | idCollision | missingExtension
  deriving DecidableEq, Repr

/-- What stands on the command port for one host operation (R135): the 4-bit code, and one port for every argument of the
R135 table. An operation reads the ports its row names; the others carry anything.
DESIGN CHOICE (log entry 6), safe: R135 gives the arguments no binary encoding. -/
structure Command where
  code    : BitVec 4
  addrCfg : Address
  cfg     : CfgArgs
  payload : Bytes
  on      : Bool
  now     : Nat
  rxFrame : Option RawFrame
  reg     : Nat
  value   : Nat
  deriving DecidableEq, Repr

/-- The encoded form of an instruction: the payload bytes of a frame after the address prefix, or a host command. -/
inductive Encoded where
  | payload (bytes : Bytes)
  | command (c : Command)
  deriving DecidableEq, Repr

/-- The instructions (R7): eight wire instructions, the frame kinds with the PCI form they come in (R106 to R109), and eight
host instructions (R135). One constructor for each row of the opcode table. The separation time of a flow-control frame is
held decoded, in microseconds, as R105 has it. -/
inductive Instr where
  /-- SF: SingleFrame with a 1-byte PCI (R106). -/
  | sf (data : Bytes)
  /-- SF_ESC: SingleFrame with the 2-byte escape PCI (R106). -/
  | sfEsc (data : Bytes)
  /-- FF: FirstFrame with a 12-bit length (R107). -/
  | ff (totalSize : Nat) (data : Bytes)
  /-- FF_ESC: FirstFrame with the 32-bit escape length (R107). -/
  | ffEsc (totalSize : Nat) (data : Bytes)
  /-- CF: ConsecutiveFrame (R108). -/
  | cf (sequenceNumber : BitVec 4) (data : Bytes)
  /-- FC.CTS: FlowControlFrame, ContinueToSend (R109). -/
  | fcCts (blockSize : Byte) (stminUs : Nat)
  /-- FC.WAIT: FlowControlFrame, Wait (R109). -/
  | fcWait (blockSize : Byte) (stminUs : Nat)
  /-- FC.OVFLW: FlowControlFrame, Overflow (R109). -/
  | fcOvflw (blockSize : Byte) (stminUs : Nat)
  /-- RESET: the constructor (R301). -/
  | reset (addrCfg : Address) (cfg : CfgArgs)
  /-- SEND (R305). -/
  | send (payload : Bytes)
  /-- RECEIVE (R306). -/
  | receive
  /-- SET_FD_MODE (R307). -/
  | setFdMode (on : Bool)
  /-- PROCESS (R300). -/
  | process (now : Nat) (rxFrame : Option RawFrame)
  /-- PROCESS_RX (R302). -/
  | processRx (now : Nat) (rxFrame : Option RawFrame)
  /-- PROCESS_TX (R303). -/
  | processTx (now : Nat)
  /-- CFG_WRITE (R308). -/
  | cfgWrite (reg : Nat) (value : Nat)
  deriving DecidableEq, Repr

/-- The pseudo-operation POLL (R140): `PROCESS rx=-`. -/
def Instr.poll (now : Nat) : Instr := .process now none

end Sys2Proof
end

