-- ==== Sys2Proof/Machine/Operands.lean ====
section
/-! DEFINITION. The operand checks of the host operations and the Addressing unit (`41_addressing.md`), pure functions of the
operands and of `C.addr`. -/

namespace Sys2Proof.Machine

/-- Whether the mode has the one-byte address-extension prefix (R170). -/
def hasExtension : AddrMode → Bool
  | .normal11Bit | .normal29Bit | .normalFixed => false
  | .extended | .mixed => true

/-- `is29Bit()` (R175): an output for the adapter, which no rule of the engine reads. -/
def is29Bit (a : Address) : Bool :=
  match a.mode with
  | .normal11Bit => false
  | .normal29Bit | .normalFixed => true
  | .extended | .mixed => a.id29

/-- `rxPrefixSize()` (R172). -/
def rxPrefixSize (a : Address) : Nat := if hasExtension a.mode then 1 else 0

/-- `txPayloadPrefix()` (R174). An Extended or Mixed address without an extension byte cannot be constructed (R176); the
function then gives no bytes (log entry 11). -/
def txPayloadPrefix (a : Address) : Bytes := if hasExtension a.mode then a.ext.toList else []

/-- `txArbitrationId(addressType)` (R173): `Functional` has no meaning in the model (`none`). -/
def txArbitrationId (a : Address) : AddressType → Option Nat
  | .physical => some a.txId
  | .functional => none

/-- `isForMe(rawFrame)` (R171): the ID matches and, where there is a prefix, the leading byte is the extension byte. -/
def isForMe (a : Address) (f : RawFrame) : Bool :=
  f.id == a.rxId &&
    (rxPrefixSize a == 0 ||
      match f.data, a.ext with
      | b :: _, some e => b == e
      | _, _ => false)

/-- Width of an arbitration ID (R176: `w`). -/
def idWidth (a : Address) : Nat := if is29Bit a then 29 else 11

/-- The construction check (R176): three checks in order, the first that fails is the result. -/
def checkAddress (a : Address) : Except AddrError Address :=
  if 2 ^ idWidth a ≤ a.txId ∨ 2 ^ idWidth a ≤ a.rxId then .error .idOutOfRange
  else if a.txId = a.rxId then .error .idCollision
  else if hasExtension a.mode && a.ext.isNone then .error .missingExtension
  else .ok a

/-- The numeric code of a construction error (R345). -/
def addrErrorCode : AddrError → Nat
  | .idOutOfRange => 1
  | .idCollision => 2
  | .missingExtension => 3

/-- A RawFrame is well formed (R101): `id < 2^29`, at most 64 payload bytes, at most 8 when the FD flag is clear. -/
def rawFrameOk (f : RawFrame) : Bool :=
  decide (f.id < 2 ^ 29) && decide (f.data.length ≤ Config.maxDlFd) &&
    (f.fd || decide (f.data.length ≤ Config.maxDlClassic))

/-- The optional frame operand of PROCESS and PROCESS_RX is absent or well formed (R300, R302). -/
def rxFrameOk : Option RawFrame → Bool
  | none => true
  | some f => rawFrameOk f

/-- SEND's `require 1 <= |payload| <= 2^32 - 1` (R305). -/
def sendLengthOk (payload : Bytes) : Bool :=
  decide (1 ≤ payload.length) && decide (payload.length ≤ Config.msgLenMax)

/-- RESET's `require blocksize <= 255 and stminMs <= 127 and padByte <= 255` (R301). -/
def cfgArgsOk (c : CfgArgs) : Bool :=
  decide (c.blocksize ≤ 255) && decide (c.stminMs ≤ 127) && decide (c.padByte.getD 0 ≤ 255)

/-- CFG_WRITE's `require reg <= 5 and value legal for reg` (R308, ranges R41 to R43). -/
def cfgWriteOk (reg value : Nat) : Bool :=
  match reg with
  | 0 => decide (value ≤ 255)
  | 1 => decide (value ≤ 127)
  | 2 | 3 | 4 => true
  | 5 => decide (value ≤ 255)
  | _ => false

/-- The separation times an STmin code can say (R26, R120): whole milliseconds 0 to 127, or 100 to 900 µs. -/
def stminLegal (u : Nat) : Bool :=
  (u % 1000 == 0 && decide (u ≤ 127000)) || (u % 100 == 0 && decide (100 ≤ u) && decide (u ≤ 900))

end Sys2Proof.Machine
end

