-- ==== Sys2Proof/Decode.lean ====
section
/-! DEFINITION. The Frame Codec's `parse` and `serialize` (`42_codec.md`), the decoder of the command port
(`30_encoding.md` rule R135), the encoder of every instruction after them, and the host's reading of opcode-table words. -/

namespace Sys2Proof

/-- Why an encoded instruction is no instruction: a parse error (R130) or a reserved command code (R135). -/
inductive DecodeError where
  | parse (e : ParseError)
  | reservedCommand (code : BitVec 4)
  deriving DecidableEq, Repr

/-! ### Fields -/

/-- `b[7:4]` (R10). -/
def highNibble (b : Byte) : Nat := b.toNat / 16

/-- `b[3:0]` (R10). -/
def lowNibble (b : Byte) : Nat := b.toNat % 16

/-- `FF_DL`, short form: `256 * (PCI byte 0 mod 16) + PCI byte 1` (R113). -/
def ffDlShort (lo : Nat) (b1 : Byte) : Nat := 256 * lo + b1.toNat

/-- `FF_DL`, escape form, most significant byte first (R114, R73). -/
def ffDlEsc (b2 b3 b4 b5 : Byte) : Nat :=
  2 ^ 24 * b2.toNat + 2 ^ 16 * b3.toNat + 2 ^ 8 * b4.toNat + b5.toNat

/-- `FS` (R115, R109): 0, 1, 2 are legal. -/
def flowStatusOf : Nat → Option FlowStatus
  | 0 => some .continueToSend
  | 1 => some .wait
  | 2 => some .overflow
  | _ => none

/-- STmin code to microseconds (R120); a reserved code gives `none`. -/
def stminOf (c : Byte) : Option Nat :=
  if c.toNat ≤ 0x7F then some (1000 * c.toNat)
  else if 0xF1 ≤ c.toNat ∧ c.toNat ≤ 0xF9 then some (100 * (c.toNat - 0xF0))
  else none

/-! ### parse -/

/-- SingleFrame, short form (R193); `rest` is what follows PCI byte 0. -/
def parseSf (lo : Nat) (rest : Bytes) : Except ParseError Frame :=
  if rest.length < lo then .error .lengthExceedsPayload else .ok (.single (rest.take lo))

/-- SingleFrame, escape form (R194). -/
def parseSfEsc : Bytes → Except ParseError Frame
  | [] => .error .zeroLengthSingleFrame
  | n :: data =>
    if n.toNat = 0 then .error .zeroLengthSingleFrame
    else if data.length < n.toNat then .error .lengthExceedsPayload
    else .ok (.single (data.take n.toNat))

/-- FirstFrame, escape form (R196); the operand is what follows PCI byte 1. -/
def parseFfEsc : Bytes → Except ParseError Frame
  | b2 :: b3 :: b4 :: b5 :: data =>
    if ffDlEsc b2 b3 b4 b5 = 0 then .error .invalidLength else .ok (.first (ffDlEsc b2 b3 b4 b5) data)
  | _ => .error .payloadTooShort

/-- FirstFrame (R195), handing over to the escape form where the 12-bit field is zero. -/
def parseFf (lo : Nat) : Bytes → Except ParseError Frame
  | [] => .error .payloadTooShort
  | b1 :: data => if ffDlShort lo b1 = 0 then parseFfEsc data else .ok (.first (ffDlShort lo b1) data)

/-- FlowControlFrame (R200): length, then status, then STmin code. -/
def parseFc (lo : Nat) : Bytes → Except ParseError Frame
  | bs :: c :: _ =>
    match flowStatusOf lo with
    | none => .error .invalidFlowStatus
    | some status =>
      match stminOf c with
      | none => .error .invalidStmin
      | some u => .ok (.flowControl ⟨status, bs, u⟩)
  | _ => .error .payloadTooShort

/-- `parse(d, p)` (R190): skip the prefix, classify by the type nibble (R110), hand over. -/
def parse (d : Bytes) (p : Nat) : Except ParseError Frame :=
  match d.drop p with
  | [] => .error .payloadTooShort
  | b0 :: rest =>
    match highNibble b0 with
    | 0 => if lowNibble b0 = 0 then parseSfEsc rest else parseSf (lowNibble b0) rest
    | 1 => parseFf (lowNibble b0) rest
    | 2 => .ok (.consecutive (BitVec.ofNat 4 (lowNibble b0)) rest)
    | 3 => parseFc (lowNibble b0) rest
    | _ => .error .unsupportedPciType

/-- The length of the PCI (R111), for a payload that parses. -/
def pciLength (d : Bytes) (p : Nat) : Nat :=
  match d.drop p with
  | [] => 0
  | b0 :: rest =>
    match highNibble b0 with
    | 0 => if lowNibble b0 = 0 then 2 else 1
    | 1 =>
      match rest with
      | [] => 2
      | b1 :: _ => if ffDlShort (lowNibble b0) b1 = 0 then 6 else 2
    | 2 => 1
    | _ => 3

/-- The wire instruction a Frame is, given the length of the PCI it came in (R106 to R109). -/
def wireInstr (pci : Nat) : Frame → Instr
  | .single data => if pci = 1 then .sf data else .sfEsc data
  | .first totalSize data => if pci = 2 then .ff totalSize data else .ffEsc totalSize data
  | .consecutive sn data => .cf sn data
  | .flowControl ⟨.continueToSend, bs, u⟩ => .fcCts bs u
  | .flowControl ⟨.wait, bs, u⟩ => .fcWait bs u
  | .flowControl ⟨.overflow, bs, u⟩ => .fcOvflw bs u

/-- The wire instruction in a payload with a prefix of `p` bytes. -/
def decodeWire (d : Bytes) (p : Nat) : Except ParseError Instr :=
  match parse d p with
  | .error e => .error e
  | .ok f => .ok (wireInstr (pciLength d p) f)

/-- The host instruction on the command port (R135); codes 0x8 to 0xF are reserved. -/
def decodeCommand (c : Command) : Except DecodeError Instr :=
  match c.code.toNat with
  | 0x0 => .ok (.reset c.addrCfg c.cfg)
  | 0x1 => .ok (.send c.payload)
  | 0x2 => .ok .receive
  | 0x3 => .ok (.setFdMode c.on)
  | 0x4 => .ok (.process c.now c.rxFrame)
  | 0x5 => .ok (.processRx c.now c.rxFrame)
  | 0x6 => .ok (.processTx c.now)
  | 0x7 => .ok (.cfgWrite c.reg c.value)
  | _ => .error (.reservedCommand c.code)

/-- The decoder: total, rejecting by name. A payload here is without its address prefix. -/
def decode : Encoded → Except DecodeError Instr
  | .payload bytes =>
    match decodeWire bytes 0 with
    | .error e => .error (.parse e)
    | .ok i => .ok i
  | .command c => decodeCommand c

/-! ### The encoder -/

/-- A number as a byte. -/
def byteOf (n : Nat) : Byte := BitVec.ofNat 8 n

/-- The number of a flow status (R109). -/
def flowStatusCode : FlowStatus → Nat
  | .continueToSend => 0
  | .wait => 1
  | .overflow => 2

/-- `stcode(u)` (R211) for a separation time that has a code. -/
def stminCode (u : Nat) : Nat := if u % 1000 = 0 then u / 1000 else 0xF0 + u / 100

/-- Form SF (R106, R211). -/
def sfBytes (data : Bytes) : Bytes := byteOf data.length :: data

/-- Form SF_ESC (R106, R211). -/
def sfEscBytes (data : Bytes) : Bytes := 0x00 :: byteOf data.length :: data

/-- Form FF (R107, R113, R211). -/
def ffBytes (totalSize : Nat) (data : Bytes) : Bytes :=
  byteOf (0x10 + totalSize / 256) :: byteOf (totalSize % 256) :: data

/-- Form FF_ESC (R107, R114, R211). -/
def ffEscBytes (totalSize : Nat) (data : Bytes) : Bytes :=
  0x10 :: 0x00 :: byteOf (totalSize / 2 ^ 24) :: byteOf (totalSize / 2 ^ 16 % 256) ::
    byteOf (totalSize / 2 ^ 8 % 256) :: byteOf (totalSize % 256) :: data

/-- Form CF (R108, R211). -/
def cfBytes (sn : BitVec 4) (data : Bytes) : Bytes := byteOf (0x20 + sn.toNat) :: data

/-- Form FC (R109, R211). -/
def fcBytes (fc : FlowControl) : Bytes :=
  [byteOf (0x30 + flowStatusCode fc.flowStatus), fc.blockSize, byteOf (stminCode fc.stminUs)]

/-- A command whose operands are all zeros, absent or empty. SEND's operand has at least one byte (R305), so its zero is the
one-byte payload `00` (log entry 7). -/
def zeroCommand (code : BitVec 4) : Command where
  code := code
  addrCfg := ⟨.normal11Bit, 0, 0, none, false⟩
  cfg := ⟨0, 0, 0, none, none, none⟩
  payload := [0]
  on := false
  now := 0
  rxFrame := none
  reg := 0
  value := 0

/-- The encoding of an instruction: the PCI and data bytes of a wire instruction in the form its constructor names, or the
command of a host instruction with its unused ports zero. -/
def encode : Instr → Encoded
  | .sf data => .payload (sfBytes data)
  | .sfEsc data => .payload (sfEscBytes data)
  | .ff totalSize data => .payload (ffBytes totalSize data)
  | .ffEsc totalSize data => .payload (ffEscBytes totalSize data)
  | .cf sn data => .payload (cfBytes sn data)
  | .fcCts bs u => .payload (fcBytes ⟨.continueToSend, bs, u⟩)
  | .fcWait bs u => .payload (fcBytes ⟨.wait, bs, u⟩)
  | .fcOvflw bs u => .payload (fcBytes ⟨.overflow, bs, u⟩)
  | .reset addrCfg cfg => .command { zeroCommand 0x0 with addrCfg, cfg }
  | .send payload => .command { zeroCommand 0x1 with payload }
  | .receive => .command (zeroCommand 0x2)
  | .setFdMode on => .command { zeroCommand 0x3 with on }
  | .process now rxFrame => .command { zeroCommand 0x4 with now, rxFrame }
  | .processRx now rxFrame => .command { zeroCommand 0x5 with now, rxFrame }
  | .processTx now => .command { zeroCommand 0x6 with now }
  | .cfgWrite reg value => .command { zeroCommand 0x7 with reg, value }

/-- `serialize(frame)` (R210, R211), the PCI width chosen by R126; `none` for a frame outside R211's ranges. -/
def serialize : Frame → Option Bytes
  | .single data =>
    if 1 ≤ data.length ∧ data.length ≤ Config.sfDlShortMax then some (sfBytes data)
    else if Config.sfDlShortMax < data.length ∧ data.length ≤ 255 then some (sfEscBytes data)
    else none
  | .first totalSize data =>
    if 1 ≤ totalSize ∧ totalSize ≤ Config.ffDlShortMax then some (ffBytes totalSize data)
    else if Config.ffDlShortMax < totalSize ∧ totalSize ≤ Config.msgLenMax then some (ffEscBytes totalSize data)
    else none
  | .consecutive sn data => some (cfBytes sn data)
  | .flowControl fc => if Machine.stminLegal fc.stminUs then some (fcBytes fc) else none

/-- The payload length emitted for a body of `n` bytes (R125, R212): `n` itself up to 8, else the least member of the FD
length set that is large enough. -/
def paddedLength (n : Nat) : Option Nat :=
  if n ≤ Config.maxDlClassic then some n else Config.fdLenSet.find? (fun m => decide (n ≤ m))

/-! ### Words of the opcode table

The table numbers a row's bits as one number with bit 0 its least significant bit and PCI byte 0 the most significant byte
(FF: `0001llllllllllll`), so a word's bytes stand most significant first. A 4-bit command code and a 1-byte PCI share the
numbers 0 to 7: those are read as command codes (log entry 7). -/

/-- The bytes of a table word, most significant first. -/
def tableBytes (nbits w : Nat) : Bytes :=
  (List.range (nbits / 8)).map fun k => byteOf (w / 2 ^ (nbits - 8 * (k + 1)))

/-- Those bytes followed by zeros, `room` bytes in all. -/
def tablePayload (nbits w room : Nat) : Bytes :=
  tableBytes nbits w ++ List.replicate (room - nbits / 8) 0

/-- Whether a table word is a command code. -/
def tableIsCommand (nbits w : Nat) : Bool := decide (nbits < 8) || (nbits == 8 && decide (w < 8))

/-- The command of a table word, its operands zero. -/
def tableCommand (w : Nat) : Command := zeroCommand (BitVec.ofNat 4 w)

/-- The instruction the decoder reads from a table word followed by zeros. -/
def decodeTableWord (nbits w : Nat) : Option Instr :=
  if tableIsCommand nbits w then (decodeCommand (tableCommand w)).toOption
  else (decodeWire (tablePayload nbits w Config.maxDlFd) 0).toOption

end Sys2Proof
end

