-- ==== Sys2Proof/Machine/State.lean ====
section
/-! DEFINITION. The state of one Transport (`10_state.md`), the events, the reasons to stop, and the state after reset. -/

namespace Sys2Proof.Machine

/-- `S.rxState` (R21). -/
inductive RxState where
  | idle | waitCF
  deriving DecidableEq, Repr

/-- `S.txState` (R21). -/
inductive TxState where
  | idle | waitFC | transmit
  deriving DecidableEq, Repr

/-- A Timer (R150): `start` is a time, `timeout` a duration, both in microseconds. -/
structure Timer where
  running : Bool
  start   : Nat
  timeout : Nat
  deriving DecidableEq, Repr

/-- The configuration record `C` (R40), registers 0 to 7 in order. The 8- and 7-bit registers have the widths of R40's
table, so R41 and R42's ranges hold by type. -/
structure ConfigRegs where
  blocksize     : Byte
  stminMs       : BitVec 7
  wftMax        : Nat
  cfTimeoutMs   : Nat
  fcTimeoutMs   : Nat
  padByte       : Byte
  maxDataLength : Nat
  addr          : Address
  deriving DecidableEq, Repr

/-- The ten diagnostic event kinds with their context fields (R333). -/
inductive Event where
  | frameParseError (e : ParseError)
  | receptionInterruptedBySingleFrame
  | receptionInterruptedByFirstFrame
  | unexpectedConsecutiveFrame
  | wrongSequenceNumber (expected got : BitVec 4)
  | unexpectedFlowControl (flowStatus : FlowStatus)
  | timeoutCF
  | timeoutFC
  | maxWaitFramesExceeded (count : Nat)
  | overflowError
  deriving DecidableEq, Repr

/-- The source's taxonomy of the event kinds (R330, the `class` column of R333). -/
inductive EventClass where
  | frameParseError | protocolViolation | timeoutError | overflowError
  deriving DecidableEq, Repr

/-- The results of R135's table other than the frame and the events: nothing (SEND, SET_FD_MODE, CFG_WRITE and the process
operations), the `ok` or the error of RESET, the message or `none` of RECEIVE. -/
inductive Reply where
  | nothing
  | ok
  | addrError (e : AddrError)
  | message (m : Option Bytes)
  deriving DecidableEq, Repr

/-- Why the machine stops with a fault. The spec's own error kinds are events, not faults: they leave a next state. -/
inductive Fault where
  /-- Raised by `encodeRaw` when its `require n <= C.maxDataLength` fails or no member of the FD length set is large enough:
  R212, "a model may treat a failing `require` as a fault naming this rule". Safe: no state with the invariant of
  Sys2Proof/Safety.lean raises it (R275). -/
  | encodeRawCapacity
  /-- Raised by `encodeRaw` for a frame outside the ranges of R211, which "the engine never calls it with" (R210). Safe: no
  state with the invariant raises it. -/
  | serializeRange
  deriving DecidableEq, Repr

/-- Why an operation is refused (R15): it changed nothing, and the call gets no further meaning. -/
inductive Refusal where
  /-- An instruction whose meaning is not written yet; no arm of `exec` raises it. Safe. -/
  | notModelled (mnemonic : String)
  /-- Raised by every instruction but RESET while no Transport exists: R370, "every other operation is `refused`". Safe. -/
  | noTransport
  /-- Raised by the fetch of a command code 0x8 to 0xF: R135, "a command with a reserved code is `refused`". Safe. -/
  | reservedCommand (code : BitVec 4)
  /-- Raised by PROCESS and PROCESS_RX: R101, "A call that offers an ill-formed RawFrame is `refused`". Safe. -/
  | illFormedFrame
  /-- Raised by the three process operations: R309, "An operation whose `now` is below an earlier one is outside the model
  (`refused`)". Safe. -/
  | clockWentBack
  /-- Raised by RESET: R301, "a `cfg` value out of its range makes the operation `refused`". Safe. -/
  | resetValueOutOfRange
  /-- Raised by SEND: R305, "an empty payload and a payload longer than 2^32-1 bytes are `refused`". Safe. -/
  | sendLength
  /-- Raised by CFG_WRITE for a register it may not write or a value out of range: R308. Safe. -/
  | cfgWriteIllegal
  deriving DecidableEq, Repr

/-- The whole state: the record `S` of R20 field by field, the record `C` of R40, and six fields of the MODEL's own.
`live`, `clock`, `program`, `txFrame`, `events`, `reply` are no state of the spec (R20: inputs and outputs are not state):
they hold whether a Transport exists (log entry 3), the latest clock sample (log entry 4), the operations the host has yet
to make (log entry 1) and the results of the last operation (log entry 5). -/
structure State where
  rxState              : RxState
  txState              : TxState
  rxBuffer             : Bytes
  txBuffer             : Bytes
  rxFrameLen           : Nat
  txFrameLen           : Nat
  rxSeqNum             : BitVec 4
  txSeqNum             : BitVec 4
  rxBlockCounter       : Nat
  txBlockCounter       : Nat
  remoteBlocksize      : Byte
  remoteStminUs        : Nat
  wftCounter           : Nat
  pendingFlowControlTx : Bool
  lastFlowControlFrame : Option FlowControl
  timerRxCF            : Timer
  timerRxFC            : Timer
  timerTxStmin         : Timer
  inbound              : List Bytes
  outbound             : List Bytes
  C                    : ConfigRegs
  live                 : Bool
  clock                : Nat
  program              : List Command
  txFrame              : Option RawFrame
  events               : List Event
  reply                : Reply
  deriving DecidableEq, Repr

/-- A stopped Timer (R30). -/
def Timer.stopped : Timer := ⟨false, 0, 0⟩

/-- The state right after a successful RESET that wrote `C`: R60, every field stated. -/
def State.constructed (C : ConfigRegs) : State where
  rxState := .idle
  txState := .idle
  rxBuffer := []
  txBuffer := []
  rxFrameLen := 0
  txFrameLen := 0
  rxSeqNum := 0
  txSeqNum := 0
  rxBlockCounter := 0
  txBlockCounter := 0
  remoteBlocksize := 0
  remoteStminUs := 0
  wftCounter := 0
  pendingFlowControlTx := false
  lastFlowControlFrame := none
  timerRxCF := .stopped
  timerRxFC := .stopped
  timerTxStmin := .stopped
  inbound := []
  outbound := []
  C := C
  live := true
  clock := 0
  program := []
  txFrame := none
  events := []
  reply := .ok

/-- The address of the spec's worked examples (R301, R176; the source's literal example T7). -/
def exampleAddress : Address := ⟨.normal11Bit, 0x701, 0x702, none, false⟩

/-- The `cfg` operand of R301's example, `RESET (Normal11Bit, 0x701, 0x702, none, false) (8, 20, 5)`. -/
def exampleCfg : CfgArgs := ⟨8, 20, 5, none, none, none⟩

/-- The machine right after reset: the state R60 gives after RESET, "the only reset the block has" (R301, R370). The
arguments the spec leaves OPEN are those of R301's example.
DESIGN CHOICE (log entry 2), unsafe: the address, `blocksize`, `stminMs` and `wftMax` are the constructor's arguments. -/
def State.reset : State :=
  State.constructed
    { blocksize := 8
      stminMs := 20
      wftMax := 5
      cfTimeoutMs := Config.timeoutMsReset
      fcTimeoutMs := Config.timeoutMsReset
      padByte := Config.padByteReset
      maxDataLength := Config.maxDlClassic
      addr := exampleAddress }

/-- The block before its first successful RESET: no Transport exists (R370). Its registers hold the reset values, which
nothing can read. -/
def State.unconstructed : State := { State.reset with live := false, reply := .nothing }

end Sys2Proof.Machine
end

