-- ==== Sys2Proof/Machine/Flags.lean ====
section
/-! DEFINITION. The flags: FD mode (R44), the pending flag (R28), the mailbox (R29), expiry of a Timer (R153), and the tests
that decide a branch of the two state machines. -/

namespace Sys2Proof.Machine

/-- `fdMode`, shorthand for `C.maxDataLength = 64` (R44). -/
def fdMode (C : ConfigRegs) : Bool := C.maxDataLength == Config.maxDlFd

/-- `expired(T, now)` (R153): not strict, and never true of a stopped Timer. -/
def expired (T : Timer) (now : Nat) : Bool := T.running && decide (T.start + T.timeout ≤ now)

/-- Ask the transmit side for a flow-control frame (R28, R236, R240). -/
def requestFlowControl (s : State) : State := { s with pendingFlowControlTx := true }

/-- Write the mailbox, overwriting what it held (R29, R233). -/
def postMailbox (fc : FlowControl) (s : State) : State := { s with lastFlowControlFrame := some fc }

/-- Empty the mailbox (R264). -/
def clearMailbox (s : State) : State := { s with lastFlowControlFrame := none }

/-- Whether a received flow-control frame shows the peer alive and telling this side to keep listening (R233). -/
def keepsListening : FlowStatus → Bool
  | .continueToSend => true
  | .wait => true
  | .overflow => false

/-- Whether the buffer holds all the bytes the FirstFrame declared (R236, R240). -/
def receptionComplete (s : State) : Bool := decide (s.rxFrameLen ≤ s.rxBuffer.length)

/-- Whether this side's block of received frames is used up (R240). -/
def rxBlockFull (s : State) : Bool := s.C.blocksize != 0 && decide (s.C.blocksize.toNat ≤ s.rxBlockCounter)

/-- Whether the peer's block of sent frames is used up (R274). -/
def txBlockFull (s : State) : Bool := s.remoteBlocksize != 0 && decide (s.remoteBlocksize.toNat ≤ s.txBlockCounter)

/-- The numeric code of an event kind (R333). -/
def eventCode : Event → Nat
  | .frameParseError _ => 0x01
  | .receptionInterruptedBySingleFrame => 0x02
  | .receptionInterruptedByFirstFrame => 0x03
  | .unexpectedConsecutiveFrame => 0x04
  | .wrongSequenceNumber _ _ => 0x05
  | .unexpectedFlowControl _ => 0x06
  | .timeoutCF => 0x07
  | .timeoutFC => 0x08
  | .maxWaitFramesExceeded _ => 0x09
  | .overflowError => 0x0A

/-- The taxonomy class of an event kind (R333). -/
def eventClass : Event → EventClass
  | .frameParseError _ => .frameParseError
  | .receptionInterruptedBySingleFrame => .protocolViolation
  | .receptionInterruptedByFirstFrame => .protocolViolation
  | .unexpectedConsecutiveFrame => .protocolViolation
  | .wrongSequenceNumber _ _ => .protocolViolation
  | .unexpectedFlowControl _ => .protocolViolation
  | .timeoutCF => .timeoutError
  | .timeoutFC => .timeoutError
  | .maxWaitFramesExceeded _ => .timeoutError
  | .overflowError => .overflowError

/-- The numeric sub-code of a parse error (R332). -/
def parseErrorCode : ParseError → Nat
  | .payloadTooShort => 1
  | .unsupportedPciType => 2
  | .zeroLengthSingleFrame => 3
  | .lengthExceedsPayload => 4
  | .invalidLength => 5
  | .invalidFlowStatus => 6
  | .invalidStmin => 7

/-- The spec's encoding of `S.rxState`, used in vectors only (R21). -/
def rxStateCode : RxState → Nat
  | .idle => 0
  | .waitCF => 1

/-- The spec's encoding of `S.txState`, used in vectors only (R21). -/
def txStateCode : TxState → Nat
  | .idle => 0
  | .waitFC => 1
  | .transmit => 2

end Sys2Proof.Machine
end

