-- ==== Sys2Proof/Machine/Ops.lean ====
section
/-! DEFINITION. The shared operations: Timer and FIFO primitives (`40_timer_fifo.md`), `encodeRaw` (R212), taking an exception
(`60_exceptions.md`), and what every host operation does at its start. -/

namespace Sys2Proof.Machine

/-! ### Timer and FIFO -/

/-- `arm(T, now, d)` (R151): overwrites the three fields of a Timer, whatever they held. -/
def armTimer (now d : Nat) : Timer := ⟨true, now, d⟩

/-- `stop(T)` (R152): clears the three fields. -/
def stopTimer : Timer := ⟨false, 0, 0⟩

/-- `push(q, m)` (R161): at the tail. -/
def push (q : List Bytes) (m : Bytes) : List Bytes := q ++ [m]

/-- `pop(q)` (R162): the head, if any, and what is left. -/
def pop : List Bytes → Option Bytes × List Bytes
  | [] => (none, [])
  | m :: q => (some m, q)

/-- `isEmpty(q)` (R163). -/
def isEmpty (q : List Bytes) : Bool := decide (q = [])

/-! ### Exceptions -/

/-- `raise K` (R14, R331): append the event to the operation's event list. -/
def raise (e : Event) (s : State) : State := { s with events := s.events ++ [e] }

/-- `rxReset()` (R340): trap entry of the receive side. Nothing is saved and nothing returns from it (R342, R347). -/
def rxReset (s : State) : State :=
  { s with
    rxState := .idle
    rxBuffer := []
    rxFrameLen := 0
    rxSeqNum := 0
    rxBlockCounter := 0
    timerRxCF := stopTimer
    pendingFlowControlTx := false }

/-- `txReset()` (R341): trap entry of the transmit side. -/
def txReset (s : State) : State :=
  { s with
    txState := .idle
    txBuffer := []
    txFrameLen := 0
    txSeqNum := 0
    txBlockCounter := 0
    wftCounter := 0
    remoteBlocksize := 0
    remoteStminUs := 0
    timerRxFC := stopTimer
    timerTxStmin := stopTimer }

/-- A receive-side exception whose action is `rxReset` (table of R333). -/
def abortRx (e : Event) (s : State) : State := rxReset (raise e s)

/-- A transmit-side exception whose action is `txReset` (table of R333). -/
def abortTx (e : Event) (s : State) : State := txReset (raise e s)

/-! ### Emitting a frame -/

/-- `encodeRaw(frame)` (R212): prefix, PCI and data, checked against the capacity and padded to the FD length set. -/
def encodeRaw (C : ConfigRegs) (f : Frame) : Except Fault RawFrame :=
  match serialize f with
  | none => .error .serializeRange
  | some bytes =>
    let body := txPayloadPrefix C.addr ++ bytes
    if C.maxDataLength < body.length then .error .encodeRawCapacity
    else
      match paddedLength body.length with
      | none => .error .encodeRawCapacity
      | some m =>
        .ok { id := C.addr.txId
              data := body ++ List.replicate (m - body.length) C.padByte
              fd := fdMode C }

/-! ### The start of a host operation -/

/-- Every host operation has its own results: those of the operation before are gone (R331, log entry 5). -/
def beginOp (s : State) : State := { s with txFrame := none, events := [], reply := .nothing }

/-- What the process operations check before they run (R300, R302, R303, R309, R370); if they run, it is at clock sample
`now`. The order of the checks is the model's (log entry 10): each refuses. -/
def beginProcess (now : Nat) (rxFrame : Option RawFrame) (s : State) : Except Refusal State :=
  if s.live = false then .error .noTransport
  else if rxFrameOk rxFrame = false then .error .illFormedFrame
  else if now < s.clock then .error .clockWentBack
  else .ok { beginOp s with clock := now }

/-- The next host operation: the head of the program (R7, log entry 1). -/
def fetch (s : State) : Option (Command × State) :=
  match s.program with
  | [] => none
  | c :: rest => some (c, { s with program := rest })

/-- The operation that runs an opcode-table word in state `s`: the command itself; or, for a frame kind, PROCESS_RX of a frame
for this side that carries the word and zeros after it, at the present clock sample (log entry 8). -/
def tableOperation (s : State) (nbits w : Nat) : Command :=
  if tableIsCommand nbits w then tableCommand w
  else
    let lead := txPayloadPrefix s.C.addr
    { zeroCommand 0x5 with
      now := s.clock
      rxFrame := some
        { id := s.C.addr.rxId
          data := lead ++ tablePayload nbits w (Config.maxDlFd - lead.length)
          fd := true } }

end Sys2Proof.Machine
end

