-- ==== Sys2Proof/Machine/Receive.lean ====
section
/-! DEFINITION. The Receive State Machine (`43_receive.md`): one operation per frame kind, the receive phase over them, and the
meanings of the eight wire instructions. `now` of the spec's pseudocode is `s.clock`, the clock sample of the operation in
progress (log entry 4). -/

namespace Sys2Proof.Machine

/-- Deliver a message and return to `Idle` (R235, R236, R240). -/
def deliver (m : Bytes) (s : State) : State := rxReset { s with inbound := push s.inbound m }

/-- The consecutive-frame timeout (R232). -/
def checkCfTimeout (s : State) : State :=
  if s.rxState = .waitCF ∧ expired s.timerRxCF s.clock then abortRx .timeoutCF s else s

/-- A FlowControlFrame (R233): into the mailbox; in `WaitCF` a Wait or ContinueToSend also arms the CF timer. -/
def receiveFlowControl (fc : FlowControl) (s : State) : State :=
  if s.rxState = .waitCF ∧ keepsListening fc.flowStatus then
    { postMailbox fc s with timerRxCF := armTimer s.clock (Config.ms s.C.cfTimeoutMs) }
  else postMailbox fc s

/-- Abandon a reassembly that a new message interrupts (R235, R236, R334); from `Idle` no event. -/
def interruptReception (e : Event) (s : State) : State :=
  if s.rxState = .idle then rxReset s else abortRx e s

/-- A SingleFrame (R235). -/
def receiveSingle (data : Bytes) (s : State) : State :=
  let s1 := interruptReception .receptionInterruptedBySingleFrame s
  { s1 with inbound := push s1.inbound data }

/-- A FirstFrame (R236). -/
def receiveFirst (totalSize : Nat) (data : Bytes) (s : State) : State :=
  let s1 := interruptReception .receptionInterruptedByFirstFrame s
  let s2 := { s1 with rxFrameLen := totalSize, rxBuffer := data.take totalSize }
  if receptionComplete s2 then deliver s2.rxBuffer s2
  else requestFlowControl { s2 with rxState := .waitCF, rxSeqNum := 1 }

/-- The end of a block on the receive side (R240). -/
def countReceived (s : State) : State :=
  let s1 := { s with rxBlockCounter := s.rxBlockCounter + 1 }
  if rxBlockFull s1 then requestFlowControl { s1 with rxBlockCounter := 0, timerRxCF := stopTimer } else s1

/-- A ConsecutiveFrame with the right sequence number in `WaitCF` (R240). -/
def acceptConsecutive (data : Bytes) (s : State) : State :=
  let s1 :=
    { s with
      timerRxCF := armTimer s.clock (Config.ms s.C.cfTimeoutMs)
      rxSeqNum := s.rxSeqNum + 1
      rxBuffer := s.rxBuffer ++ data.take (s.rxFrameLen - s.rxBuffer.length) }
  if receptionComplete s1 then deliver s1.rxBuffer s1 else countReceived s1

/-- A ConsecutiveFrame (R237, R238, R240). -/
def receiveConsecutive (sn : BitVec 4) (data : Bytes) (s : State) : State :=
  if s.rxState = .idle then abortRx .unexpectedConsecutiveFrame s
  else if sn = s.rxSeqNum then acceptConsecutive data s
  else abortRx (.wrongSequenceNumber s.rxSeqNum sn) s

/-- Dispatch by frame kind (R230 step 4). -/
def receiveFrame (f : Frame) (s : State) : State :=
  match f with
  | .single data => receiveSingle data s
  | .first totalSize data => receiveFirst totalSize data s
  | .consecutive sn data => receiveConsecutive sn data s
  | .flowControl fc => receiveFlowControl fc s

/-- `processReceive(now, rxFrame?)` (R230): address filter, parse, timeout check, dispatch. A frame that is not for this side
is no frame; one that does not parse is no frame after its event (R231). -/
def processReceive (rxFrame : Option RawFrame) (s : State) : State :=
  match rxFrame.filter (isForMe s.C.addr) with
  | none => checkCfTimeout s
  | some x =>
    match parse x.data (rxPrefixSize s.C.addr) with
    | .error e => checkCfTimeout (raise (.frameParseError e) s)
    | .ok f => receiveFrame f (checkCfTimeout s)

/-! ### The wire instructions

Executing a wire instruction is the receive machine's rule for its kind (R7), at the clock sample of the process operation it
came in. What a flow-control frame then does to a send is the transmit phase's, through the mailbox (R264, log entry 9). -/

/-- A wire instruction has a meaning only where a Transport exists (R370). -/
def wireOp (f : State → State) (s : State) : Host.Outcome State Fault Refusal :=
  if s.live then .next (f s) else .refused .noTransport

/-- SF (R193, R235). -/
def execSf (data : Bytes) (s : State) : Host.Outcome State Fault Refusal := wireOp (receiveSingle data) s

/-- SF_ESC (R194, R235). -/
def execSfEsc (data : Bytes) (s : State) : Host.Outcome State Fault Refusal := wireOp (receiveSingle data) s

/-- FF (R195, R236). -/
def execFf (totalSize : Nat) (data : Bytes) (s : State) : Host.Outcome State Fault Refusal :=
  wireOp (receiveFirst totalSize data) s

/-- FF_ESC (R196, R236). -/
def execFfEsc (totalSize : Nat) (data : Bytes) (s : State) : Host.Outcome State Fault Refusal :=
  wireOp (receiveFirst totalSize data) s

/-- CF (R199, R237, R238, R240). -/
def execCf (sn : BitVec 4) (data : Bytes) (s : State) : Host.Outcome State Fault Refusal :=
  wireOp (receiveConsecutive sn data) s

/-- FC.CTS (R200, R233; R265 when the transmit phase reads the mailbox). -/
def execFcCts (blockSize : Byte) (stminUs : Nat) (s : State) : Host.Outcome State Fault Refusal :=
  wireOp (receiveFlowControl ⟨.continueToSend, blockSize, stminUs⟩) s

/-- FC.WAIT (R200, R233; R266 when the transmit phase reads the mailbox). -/
def execFcWait (blockSize : Byte) (stminUs : Nat) (s : State) : Host.Outcome State Fault Refusal :=
  wireOp (receiveFlowControl ⟨.wait, blockSize, stminUs⟩) s

/-- FC.OVFLW (R200, R233; R267 when the transmit phase reads the mailbox). -/
def execFcOvflw (blockSize : Byte) (stminUs : Nat) (s : State) : Host.Outcome State Fault Refusal :=
  wireOp (receiveFlowControl ⟨.overflow, blockSize, stminUs⟩) s

end Sys2Proof.Machine
end

