-- ==== Sys2Proof/Machine/Transmit.lean ====
section
/-! DEFINITION. The Transmit State Machine and the flow-control arbiter (`44_transmit.md`). `now` is `s.clock`; a frame the
phase emits stands in `s.txFrame`. -/

namespace Sys2Proof.Machine

/-- Hand `f` to the adapter (R260: it counts as sent at that instant). -/
def emit (f : Frame) (s : State) : Except Fault State :=
  match encodeRaw s.C f with
  | .error e => .error e
  | .ok r => .ok { s with txFrame := some r }

/-! ### Step 1 -/

/-- Emission of this side's flow-control frame (R263): always ContinueToSend, with this side's own policy. -/
def sendFlowControl (s : State) : Except Fault State :=
  emit (.flowControl ⟨.continueToSend, s.C.blocksize, 1000 * s.C.stminMs.toNat⟩)
    { s with
      pendingFlowControlTx := false
      timerRxCF := armTimer s.clock (Config.ms s.C.cfTimeoutMs) }

/-! ### Step 2 -/

/-- ContinueToSend while a send is in progress (R265). -/
def adoptGrant (fc : FlowControl) (s : State) : State :=
  { s with
    wftCounter := 0
    remoteBlocksize := fc.blockSize
    remoteStminUs := fc.stminUs
    txState := .transmit
    txBlockCounter := 0
    timerRxFC := stopTimer
    timerTxStmin := armTimer s.clock 0 }

/-- Wait while a send is in progress (R266): count it, then abort or wait afresh. -/
def countWait (s : State) : State :=
  let s1 := { s with wftCounter := s.wftCounter + 1 }
  if s1.C.wftMax < s1.wftCounter then abortTx (.maxWaitFramesExceeded s1.wftCounter) s1
  else { s1 with timerRxFC := armTimer s1.clock (Config.ms s1.C.fcTimeoutMs) }

/-- What a flow-control frame means for a send in progress (R265 to R267) or for none (R268). -/
def actOnFlowControl (fc : FlowControl) (s : State) : State :=
  if s.txState = .idle then raise (.unexpectedFlowControl fc.flowStatus) s
  else
    match fc.flowStatus with
    | .continueToSend => adoptGrant fc s
    | .wait => countWait s
    | .overflow => abortTx .overflowError s

/-- Reading the mailbox (R264): read and cleared in one go. -/
def serveMailbox (s : State) : State :=
  match s.lastFlowControlFrame with
  | none => s
  | some fc => actOnFlowControl fc (clearMailbox s)

/-! ### Step 3 -/

/-- The flow-control timeout (R269). -/
def checkFcTimeout (s : State) : State :=
  if expired s.timerRxFC s.clock then abortTx .timeoutFC s else s

/-! ### Step 4 -/

/-- The PCI overhead of a SingleFrame of `L` bytes (R270). -/
def singlePci (L : Nat) : Nat := if L ≤ Config.sfDlShortMax then 1 else 2

/-- The fit test (R270): prefix, PCI and message within the capacity. -/
def fitsSingle (C : ConfigRegs) (L : Nat) : Bool :=
  decide ((txPayloadPrefix C.addr).length + singlePci L + L ≤ C.maxDataLength)

/-- Data bytes of a FirstFrame (R271: `k`). -/
def firstChunk (C : ConfigRegs) (L : Nat) : Nat :=
  C.maxDataLength - (txPayloadPrefix C.addr).length - (if L ≤ Config.ffDlShortMax then 2 else 6)

/-- Data bytes of a ConsecutiveFrame (R274: `c`). -/
def consecutiveChunk (C : ConfigRegs) : Nat := C.maxDataLength - (txPayloadPrefix C.addr).length - 1

/-- Start of a multi-frame send (R271). -/
def startMulti (msg : Bytes) (s : State) : Except Fault State :=
  emit (.first msg.length (msg.take (firstChunk s.C msg.length)))
    { s with
      txFrameLen := msg.length
      txBuffer := msg.drop (firstChunk s.C msg.length)
      txSeqNum := 1
      txState := .waitFC
      timerRxFC := armTimer s.clock (Config.ms s.C.fcTimeoutMs) }

/-- State `Idle`: take the next message and choose the strategy (R270, R272, R271). -/
def startNext (s : State) : Except Fault State :=
  match pop s.outbound with
  | (none, _) => .ok s
  | (some msg, q) =>
    if fitsSingle s.C msg.length then emit (.single msg) { s with outbound := q }
    else startMulti msg { s with outbound := q }

/-- After a ConsecutiveFrame (R274): completion first, then the block test. -/
def afterConsecutive (s : State) : State :=
  if s.txBuffer = [] then txReset s
  else if txBlockFull s then
    { s with txState := .waitFC, timerRxFC := armTimer s.clock (Config.ms s.C.fcTimeoutMs) }
  else s

/-- State `Transmit` with the pacing timer elapsed: emit one ConsecutiveFrame (R274). -/
def emitConsecutive (s : State) : Except Fault State :=
  match emit (.consecutive s.txSeqNum (s.txBuffer.take (consecutiveChunk s.C))) s with
  | .error e => .error e
  | .ok s1 =>
    .ok (afterConsecutive
      { s1 with
        txBuffer := s.txBuffer.drop (consecutiveChunk s.C)
        txSeqNum := s.txSeqNum + 1
        timerTxStmin := armTimer s.clock s.remoteStminUs
        txBlockCounter := s.txBlockCounter + 1 })

/-- Drive the current state (R262 step 4). -/
def driveState (s : State) : Except Fault State :=
  match s.txState with
  | .idle => startNext s
  | .waitFC => .ok s
  | .transmit => if expired s.timerTxStmin s.clock then emitConsecutive s else .ok s

/-- `processTransmit(now)` (R260, R262): step 1 ends the call if it fires, steps 2 and 3 fall through to step 4. -/
def processTransmit (s : State) : Except Fault State :=
  if s.pendingFlowControlTx then sendFlowControl s
  else driveState (checkFcTimeout (serveMailbox s))

end Sys2Proof.Machine
end

