-- ==== Sys2Proof/Machine/HostOps.lean ====
section
/-! DEFINITION. The meanings of the eight host instructions (`45_host_ops.md`). -/

namespace Sys2Proof.Machine

/-- An operation that reads and writes the state of a live Transport (R370). -/
def hostOp (f : State → State) (s : State) : Host.Outcome State Fault Refusal :=
  if s.live then .next (f (beginOp s)) else .refused .noTransport

/-- The configuration record RESET writes (R301): defaults 1000, 1000, 0xCC, and classic mode. -/
def configOf (a : Address) (c : CfgArgs) : ConfigRegs where
  blocksize := BitVec.ofNat 8 c.blocksize
  stminMs := BitVec.ofNat 7 c.stminMs
  wftMax := c.wftMax
  cfTimeoutMs := c.cfTimeoutMs.getD Config.timeoutMsReset
  fcTimeoutMs := c.fcTimeoutMs.getD Config.timeoutMsReset
  padByte := (c.padByte.map (BitVec.ofNat 8)).getD Config.padByteReset
  maxDataLength := Config.maxDlClassic
  addr := a

/-- RESET (R301): the construction check, then the range checks, then the whole state anew. On a construction error no
Transport exists (R176). -/
def execReset (addrCfg : Address) (cfg : CfgArgs) (s : State) : Host.Outcome State Fault Refusal :=
  match checkAddress addrCfg with
  | .error e => .next { beginOp s with live := false, reply := .addrError e }
  | .ok a =>
    if cfgArgsOk cfg then .next { State.constructed (configOf a cfg) with program := s.program }
    else .refused .resetValueOutOfRange

/-- SEND (R305). -/
def execSend (payload : Bytes) (s : State) : Host.Outcome State Fault Refusal :=
  if s.live && !sendLengthOk payload then .refused .sendLength
  else hostOp (fun s1 => { s1 with outbound := push s1.outbound payload }) s

/-- RECEIVE (R306). -/
def execReceive (s : State) : Host.Outcome State Fault Refusal :=
  hostOp (fun s1 => { s1 with inbound := (pop s1.inbound).2, reply := .message (pop s1.inbound).1 }) s

/-- SET_FD_MODE (R307). -/
def execSetFdMode (on : Bool) (s : State) : Host.Outcome State Fault Refusal :=
  hostOp (fun s1 => { s1 with C.maxDataLength := if on then Config.maxDlFd else Config.maxDlClassic }) s

/-- PROCESS (R300): the receive phase, then the transmit phase, at one clock sample. -/
def execProcess (now : Nat) (rxFrame : Option RawFrame) (s : State) : Host.Outcome State Fault Refusal :=
  match beginProcess now rxFrame s with
  | .error r => .refused r
  | .ok s1 =>
    match processTransmit (processReceive rxFrame s1) with
    | .error f => .fault f
    | .ok s2 => .next s2

/-- PROCESS_RX (R302): the receive phase alone. -/
def execProcessRx (now : Nat) (rxFrame : Option RawFrame) (s : State) : Host.Outcome State Fault Refusal :=
  match beginProcess now rxFrame s with
  | .error r => .refused r
  | .ok s1 => .next (processReceive rxFrame s1)

/-- PROCESS_TX (R303): the transmit phase alone. -/
def execProcessTx (now : Nat) (s : State) : Host.Outcome State Fault Refusal :=
  match beginProcess now none s with
  | .error r => .refused r
  | .ok s1 =>
    match processTransmit s1 with
    | .error f => .fault f
    | .ok s2 => .next s2

/-- The write of configuration register `reg` (R308, numbers of R40), for a legal register and value. -/
def writeRegister (reg value : Nat) (C : ConfigRegs) : ConfigRegs :=
  match reg with
  | 0 => { C with blocksize := BitVec.ofNat 8 value }
  | 1 => { C with stminMs := BitVec.ofNat 7 value }
  | 2 => { C with wftMax := value }
  | 3 => { C with cfTimeoutMs := value }
  | 4 => { C with fcTimeoutMs := value }
  | 5 => { C with padByte := BitVec.ofNat 8 value }
  | _ => C

/-- CFG_WRITE (R308). -/
def execCfgWrite (reg value : Nat) (s : State) : Host.Outcome State Fault Refusal :=
  if s.live && !cfgWriteOk reg value then .refused .cfgWriteIllegal
  else hostOp (fun s1 => { s1 with C := writeRegister reg value s1.C }) s

end Sys2Proof.Machine
end

