-- ==== Sys2Proof/Machine/Dispatch.lean ====
section
/-! DEFINITION. One arm per instruction. -/

namespace Sys2Proof.Machine

def exec (i : Instr) (s : State) : Host.Outcome State Fault Refusal :=
  match i with
  | .sf data => Sys2Proof.Machine.execSf data s
  | .sfEsc data => Sys2Proof.Machine.execSfEsc data s
  | .ff totalSize data => Sys2Proof.Machine.execFf totalSize data s
  | .ffEsc totalSize data => Sys2Proof.Machine.execFfEsc totalSize data s
  | .cf sequenceNumber data => Sys2Proof.Machine.execCf sequenceNumber data s
  | .fcCts blockSize stminUs => Sys2Proof.Machine.execFcCts blockSize stminUs s
  | .fcWait blockSize stminUs => Sys2Proof.Machine.execFcWait blockSize stminUs s
  | .fcOvflw blockSize stminUs => Sys2Proof.Machine.execFcOvflw blockSize stminUs s
  | .reset addrCfg cfg => Sys2Proof.Machine.execReset addrCfg cfg s
  | .send payload => Sys2Proof.Machine.execSend payload s
  | .receive => Sys2Proof.Machine.execReceive s
  | .setFdMode on => Sys2Proof.Machine.execSetFdMode on s
  | .process now rxFrame => Sys2Proof.Machine.execProcess now rxFrame s
  | .processRx now rxFrame => Sys2Proof.Machine.execProcessRx now rxFrame s
  | .processTx now => Sys2Proof.Machine.execProcessTx now s
  | .cfgWrite reg value => Sys2Proof.Machine.execCfgWrite reg value s

end Sys2Proof.Machine
end

