-- ==== Sys2Proof/Machine/Step.lean ====
section
/-! DEFINITION. One step of the machine: one host operation of the program (R80). -/

namespace Sys2Proof.Machine

/-- One step: take the next host operation and execute it. Between operations the block "holds its state and does nothing"
(R358), so with no operation pending the state is held. -/
def step (s : State) : Host.Outcome State Fault Refusal :=
  match fetch s with
  | none => .next s
  | some (c, s1) =>
    match decodeCommand c with
    | .error _ => .refused (.reservedCommand c.code)
    | .ok i => exec i s1

/-- `s` with the operation that runs the opcode-table word `w` (`tableOperation`, log entry 8) as the next one of its program. -/
def State.withFetchWord (s : State) (nbits w : Nat) : State :=
  { s with program := [tableOperation s nbits w] }

end Sys2Proof.Machine
end

