-- ==== Sys2Proof/Safety.lean ====
section
/-! DEFINITION. What counts as a good state: the invariants of `10_state.md` rule R50 and of the register ranges, and the
quiescent predicate of R379. -/

namespace Sys2Proof.Machine

/-- The configuration is one that RESET, SET_FD_MODE and CFG_WRITE can leave (R40, R44, R176). -/
structure ConfigInv (C : ConfigRegs) : Prop where
  dataLength : C.maxDataLength = Config.maxDlClassic ∨ C.maxDataLength = Config.maxDlFd
  address    : checkAddress C.addr = .ok C.addr

/-- The receive side: R50 (a), (b), (c), the range of R23 and the arming discipline of R236, R240 and R263. -/
structure RxInv (s : State) : Prop where
  idle      : s.rxState = .idle →
    s.rxBuffer = [] ∧ s.rxFrameLen = 0 ∧ s.rxSeqNum = 0 ∧ s.rxBlockCounter = 0 ∧
      s.timerRxCF.running = false ∧ s.pendingFlowControlTx = false
  waiting   : s.rxState = .waitCF → s.rxBuffer.length < s.rxFrameLen
  guarded   : s.rxState = .waitCF → s.pendingFlowControlTx = true ∨ s.timerRxCF.running = true
  pending   : s.pendingFlowControlTx = true → s.rxState = .waitCF
  frameLen  : s.rxFrameLen ≤ Config.msgLenMax

/-- The transmit side: R50 (d), (e), (f), the ranges of R23 and R26, and the running FC timer of R271 and R274. -/
structure TxInv (s : State) : Prop where
  idle      : s.txState = .idle →
    s.txBuffer = [] ∧ s.txFrameLen = 0 ∧ s.txSeqNum = 0 ∧ s.txBlockCounter = 0 ∧ s.wftCounter = 0 ∧
      s.remoteBlocksize = 0 ∧ s.remoteStminUs = 0 ∧ s.timerRxFC.running = false ∧ s.timerTxStmin.running = false
  sending   : s.txState ≠ .idle → s.txBuffer ≠ [] ∧ s.txBuffer.length < s.txFrameLen
  pacing    : s.txState = .transmit → s.timerTxStmin.running = true
  awaiting  : s.txState = .waitFC → s.timerRxFC.running = true
  frameLen  : s.txFrameLen ≤ Config.msgLenMax
  separation : stminLegal s.remoteStminUs = true

/-- The queues and the mailbox: R50 (g) and R26. -/
structure QueueInv (s : State) : Prop where
  inbound  : ∀ m ∈ s.inbound, m.length ≤ Config.msgLenMax
  outbound : ∀ m ∈ s.outbound, 1 ≤ m.length ∧ m.length ≤ Config.msgLenMax
  mailbox  : ∀ fc, s.lastFlowControlFrame = some fc → stminLegal fc.stminUs = true

/-- The invariant of the reachable states. -/
structure Inv (s : State) : Prop where
  config : ConfigInv s.C
  rx     : RxInv s
  tx     : TxInv s
  queues : QueueInv s

/-- The quiescent predicate (R379). -/
def quiescent (s : State) : Prop :=
  s.rxState = .idle ∧ s.txState = .idle ∧ s.outbound = [] ∧ s.pendingFlowControlTx = false ∧
    s.lastFlowControlFrame = none

end Sys2Proof.Machine
end

