-- ==== Sys2Proof/WellFormed.lean ====
section
/-! DEFINITION. Which instructions are well formed: their operands are in the ranges the spec gives them, so that a wire
instruction has an encoding of at most 64 bytes (R106 to R109, R120) and a host instruction passes the checks on its operands
alone (R101, R301, R305, R308). -/

namespace Sys2Proof

/-- The operands of a flow-control frame have an encoding: the separation time is one an STmin code says (R120). -/
def fcOperandsOk (stminUs : Nat) : Bool := Machine.stminLegal stminUs

/-- A well-formed instruction. -/
def Instr.wf : Instr → Bool
  | .sf data => decide (1 ≤ data.length) && decide (data.length ≤ 15)
  | .sfEsc data => decide (1 ≤ data.length) && decide (data.length ≤ 62)
  | .ff totalSize data => decide (1 ≤ totalSize) && decide (totalSize ≤ 4095) && decide (data.length ≤ 62)
  | .ffEsc totalSize data => decide (1 ≤ totalSize) && decide (totalSize ≤ Config.msgLenMax) && decide (data.length ≤ 58)
  | .cf _ data => decide (data.length ≤ 63)
  | .fcCts _ stminUs => fcOperandsOk stminUs
  | .fcWait _ stminUs => fcOperandsOk stminUs
  | .fcOvflw _ stminUs => fcOperandsOk stminUs
  | .reset _ cfg => Machine.cfgArgsOk cfg
  | .send payload => Machine.sendLengthOk payload
  | .receive => true
  | .setFdMode _ => true
  | .process _ rxFrame => Machine.rxFrameOk rxFrame
  | .processRx _ rxFrame => Machine.rxFrameOk rxFrame
  | .processTx _ => true
  | .cfgWrite reg value => Machine.cfgWriteOk reg value

/-- The wire instructions (R7). -/
def Instr.isWire : Instr → Bool
  | .sf _ => true
  | .sfEsc _ => true
  | .ff _ _ => true
  | .ffEsc _ _ => true
  | .cf _ _ => true
  | .fcCts _ _ => true
  | .fcWait _ _ => true
  | .fcOvflw _ _ => true
  | .reset _ _ => false
  | .send _ => false
  | .receive => false
  | .setFdMode _ => false
  | .process _ _ => false
  | .processRx _ _ => false
  | .processTx _ => false
  | .cfgWrite _ _ => false

end Sys2Proof
end

