-- ==== Sys2Proof/Certificates/Slice0/Obligations.lean ====
section
/-! DEFINITION. The statements for the provers. Helper definitions first: each says in explicit terms what a rule of the spec
says, so that a statement does not lean on the meaning it is about. -/

namespace Sys2Proof.Machine

/-- The outcome type of the machine. -/
abbrev Result := Host.Outcome State Fault Refusal

/-- The conditions on state and operands under which a process operation runs (R300, R309, R370). -/
def canProcess (now : Nat) (rxFrame : Option RawFrame) (s : State) : Prop :=
  s.live = true ∧ rxFrameOk rxFrame = true ∧ s.clock ≤ now

/-- `s` as the phases of a process operation at `now` find it: its results empty, its clock sample `now`. -/
def atOp (now : Nat) (s : State) : State :=
  { s with clock := now, txFrame := none, events := [], reply := .nothing }

/-- `s` as a host operation without a time argument finds it: its results empty. -/
def atCall (s : State) : State := { s with txFrame := none, events := [], reply := .nothing }

/-- R153, spelled out. -/
def deadlinePassed (T : Timer) (now : Nat) : Prop := T.running = true ∧ T.start + T.timeout ≤ now

/-- What the timeout check of R232 leaves of `atOp now s`. -/
def AfterCfTimeout (now : Nat) (s t : State) : Prop :=
  (s.rxState = .waitCF ∧ deadlinePassed s.timerRxCF now → t = { rxReset (atOp now s) with events := [.timeoutCF] }) ∧
  (¬(s.rxState = .waitCF ∧ deadlinePassed s.timerRxCF now) → t = atOp now s)

/-- The events of a reception that interrupts another (R235, R236). -/
def interruptEvents (e : Event) (s : State) : List Event := if s.rxState = .idle then [] else [e]

/-- The payload length R125 gives a body of `n <= 64` bytes. -/
def padTo (n : Nat) : Nat :=
  if n ≤ 8 then n else if n ≤ 12 then 12 else if n ≤ 16 then 16 else if n ≤ 20 then 20 else if n ≤ 24 then 24
  else if n ≤ 32 then 32 else if n ≤ 48 then 48 else 64

/-- The RawFrame that carries `body` after the address prefix, padded (R102, R125, R212). -/
def emitted (C : ConfigRegs) (body : Bytes) : RawFrame :=
  let whole := txPayloadPrefix C.addr ++ body
  { id := C.addr.txId
    data := whole ++ List.replicate (padTo whole.length - whole.length) C.padByte
    fd := C.maxDataLength == 64 }

/-- A transmit phase at `now` reaches its step 4 with nothing done in steps 1 to 3 (R262). -/
def reachesStepFour (now : Nat) (s : State) : Prop :=
  s.pendingFlowControlTx = false ∧ s.lastFlowControlFrame = none ∧ ¬ deadlinePassed s.timerRxFC now

/-- A transmit phase that reaches its step 2 and finds `fc` in the mailbox (R262, R264). -/
def finds (fc : FlowControl) (s : State) : Prop :=
  s.pendingFlowControlTx = false ∧ s.lastFlowControlFrame = some fc

/-- The same outcome with `es` raised before its own events. -/
def eventsBefore (es : List Event) : Result → Result
  | .next s => .next { s with events := es ++ s.events }
  | .fault f => .fault f
  | .refused r => .refused r

/-- The registers of the transmit side (R21 to R26, R30). -/
def SameTransmitSide (s t : State) : Prop :=
  t.txState = s.txState ∧ t.txBuffer = s.txBuffer ∧ t.txFrameLen = s.txFrameLen ∧ t.txSeqNum = s.txSeqNum ∧
  t.txBlockCounter = s.txBlockCounter ∧ t.remoteBlocksize = s.remoteBlocksize ∧ t.remoteStminUs = s.remoteStminUs ∧
  t.wftCounter = s.wftCounter ∧ t.timerRxFC = s.timerRxFC ∧ t.timerTxStmin = s.timerTxStmin ∧ t.outbound = s.outbound

/-- The registers of the receive side but the pending flag and the CF timer, the two the transmit phase may write (R260). -/
def SameReceiveRegisters (s t : State) : Prop :=
  t.rxState = s.rxState ∧ t.rxBuffer = s.rxBuffer ∧ t.rxFrameLen = s.rxFrameLen ∧ t.rxSeqNum = s.rxSeqNum ∧
  t.rxBlockCounter = s.rxBlockCounter ∧ t.inbound = s.inbound

/-- The peer's address is this side's mirror image (R372 (3)). -/
def Mirrors (a b : Address) : Prop := b.rxId = a.txId ∧ b.txId = a.rxId ∧ b.mode = a.mode ∧ b.ext = a.ext ∧ b.id29 = a.id29

/-- One round of a loopback at time `t`: `a` is called with the frame in flight to it, then `b` with what `a` emitted; what
`b` emitted is in flight to `a`. -/
def exchange (t : Nat) (a b : State) (toA : Option RawFrame) : Option (State × State × Option RawFrame) :=
  match exec (.process t toA) a with
  | .next a' =>
    match exec (.process t a'.txFrame) b with
    | .next b' => some (a', b', b'.txFrame)
    | _ => none
  | _ => none

/-- `n` rounds, `gap` microseconds apart, the first at `t`. -/
def exchanges (gap : Nat) : Nat → Nat → State → State → Option RawFrame → Option (State × State)
  | 0, _, a, b, _ => some (a, b)
  | n + 1, t, a, b, toA =>
    match exchange t a b toA with
    | none => none
    | some (a', b', f) => exchanges gap n (t + gap) a' b' f

end Sys2Proof.Machine

open Sys2Proof Sys2Proof.Machine

/-! ### Encodings and the codec -/

/-- `42_codec.md`: with the PCI form its constructor names, every well-formed instruction decodes back to itself; on the command
port likewise (the operands' ports are the model's choice, log entry 6). -/
def Obligations.WellFormedInstructionsRoundTrip : Prop :=
  ∀ i : Instr, i.wf = true → decode (encode i) = .ok i

/-- Words written out byte by byte: seven payloads of `95_test_vectors.md` V42-1 to V42-3, the payload `31 00 F5` of R200's
example, and command codes of R135. The operand ports of a command are the model's choice (log entry 6). -/
def Obligations.SpecVectorWordsDecode : Prop :=
  decodeWire [0x03, 0x22, 0xF0, 0xFA] 0 = .ok (.sf [0x22, 0xF0, 0xFA]) ∧
  decodeWire [0x00, 0x01, 0xAA] 0 = .ok (.sfEsc [0xAA]) ∧
  decodeWire [0x10, 0x14, 0x00, 0x01, 0x02, 0x03, 0x04, 0x05] 0 = .ok (.ff 20 [0x00, 0x01, 0x02, 0x03, 0x04, 0x05]) ∧
  decodeWire [0x10, 0x00, 0x01, 0x02, 0x03, 0x04] 0 = .ok (.ffEsc 16909060 []) ∧
  decodeWire [0x55, 0x21] 1 = .ok (.cf 1 []) ∧
  decodeWire [0x30, 0x08, 0x14] 0 = .ok (.fcCts 8 20000) ∧
  decodeWire [0x31, 0x00, 0xF5] 0 = .ok (.fcWait 0 500) ∧
  decodeWire [0x32, 0x05, 0x7F, 0xAA] 0 = .ok (.fcOvflw 5 127000) ∧
  decodeCommand (zeroCommand 0x2) = .ok .receive ∧
  decodeCommand { zeroCommand 0x7 with reg := 1, value := 127 } = .ok (.cfgWrite 1 127)

/-- R191, R192 and R199: no PCI byte; an unknown type nibble, whatever follows; a ConsecutiveFrame, which always parses.
R201: with a prefix of one byte every rule applies one index up, and the prefix byte is not examined. `lead` is the address
prefix of `p` bytes. -/
def Obligations.ClassificationByTypeNibble : Prop :=
  (∀ (d : Bytes) (p : Nat), d.length ≤ p → parse d p = .error .payloadTooShort) ∧
  (∀ (lead rest : Bytes) (b0 : Byte), 0x40 ≤ b0.toNat →
    parse (lead ++ b0 :: rest) lead.length = .error .unsupportedPciType) ∧
  (∀ (lead rest : Bytes) (sn : BitVec 4),
    parse (lead ++ byteOf (0x20 + sn.toNat) :: rest) lead.length = .ok (.consecutive sn rest)) ∧
  (∀ (b : Byte) (d : Bytes), parse (b :: d) 1 = parse d 0)

/-- R193 and R194: the two forms of a SingleFrame, with their errors. -/
def Obligations.SingleFrameParse : Prop :=
  (∀ (lead rest : Bytes) (lo : Nat), 1 ≤ lo → lo ≤ 15 →
    (rest.length < lo → parse (lead ++ byteOf lo :: rest) lead.length = .error .lengthExceedsPayload) ∧
    (lo ≤ rest.length → parse (lead ++ byteOf lo :: rest) lead.length = .ok (.single (rest.take lo)))) ∧
  (∀ lead : Bytes, parse (lead ++ [0x00]) lead.length = .error .zeroLengthSingleFrame) ∧
  (∀ (lead rest : Bytes), parse (lead ++ 0x00 :: 0x00 :: rest) lead.length = .error .zeroLengthSingleFrame) ∧
  (∀ (lead rest : Bytes) (n : Nat), 1 ≤ n → n ≤ 255 →
    (rest.length < n → parse (lead ++ 0x00 :: byteOf n :: rest) lead.length = .error .lengthExceedsPayload) ∧
    (n ≤ rest.length → parse (lead ++ 0x00 :: byteOf n :: rest) lead.length = .ok (.single (rest.take n))))

/-- R195 and R196: the two forms of a FirstFrame, with their errors; the length fields are big-endian (R73, R113, R114). -/
def Obligations.FirstFrameParse : Prop :=
  (∀ (lead : Bytes) (hi : Nat), hi ≤ 15 → parse (lead ++ [byteOf (0x10 + hi)]) lead.length = .error .payloadTooShort) ∧
  (∀ (lead rest : Bytes) (hi : Nat) (b1 : Byte), hi ≤ 15 → 256 * hi + b1.toNat ≠ 0 →
    parse (lead ++ byteOf (0x10 + hi) :: b1 :: rest) lead.length = .ok (.first (256 * hi + b1.toNat) rest)) ∧
  (∀ (lead rest : Bytes), rest.length < 4 → parse (lead ++ 0x10 :: 0x00 :: rest) lead.length = .error .payloadTooShort) ∧
  (∀ (lead rest : Bytes) (b2 b3 b4 b5 : Byte),
    let L := 16777216 * b2.toNat + 65536 * b3.toNat + 256 * b4.toNat + b5.toNat
    (L = 0 → parse (lead ++ 0x10 :: 0x00 :: b2 :: b3 :: b4 :: b5 :: rest) lead.length = .error .invalidLength) ∧
    (L ≠ 0 → parse (lead ++ 0x10 :: 0x00 :: b2 :: b3 :: b4 :: b5 :: rest) lead.length = .ok (.first L rest)))

/-- R200 and R120: length, then status, then STmin code, whatever the status; bytes after PCI byte 2 are ignored. -/
def Obligations.FlowControlParse : Prop :=
  (∀ (lead rest : Bytes) (lo : Nat), lo ≤ 15 → rest.length < 2 →
    parse (lead ++ byteOf (0x30 + lo) :: rest) lead.length = .error .payloadTooShort) ∧
  (∀ (lead rest : Bytes) (lo : Nat) (bs c : Byte), 3 ≤ lo → lo ≤ 15 →
    parse (lead ++ byteOf (0x30 + lo) :: bs :: c :: rest) lead.length = .error .invalidFlowStatus) ∧
  (∀ (lead rest : Bytes) (lo : Nat) (st : FlowStatus) (bs c : Byte),
    (lo = 0 ∧ st = .continueToSend ∨ lo = 1 ∧ st = .wait ∨ lo = 2 ∧ st = .overflow) →
    (c.toNat ≤ 0x7F →
      parse (lead ++ byteOf (0x30 + lo) :: bs :: c :: rest) lead.length = .ok (.flowControl ⟨st, bs, 1000 * c.toNat⟩)) ∧
    (0xF1 ≤ c.toNat → c.toNat ≤ 0xF9 →
      parse (lead ++ byteOf (0x30 + lo) :: bs :: c :: rest) lead.length =
        .ok (.flowControl ⟨st, bs, 100 * (c.toNat - 0xF0)⟩)) ∧
    (0x80 ≤ c.toNat → c.toNat ≤ 0xF0 ∨ 0xFA ≤ c.toNat →
      parse (lead ++ byteOf (0x30 + lo) :: bs :: c :: rest) lead.length = .error .invalidStmin))

/-- R197 (derived there): the bounds of a decoded FirstFrame. -/
def Obligations.DecodedFirstFrameBounds : Prop :=
  ∀ (d data : Bytes) (p L : Nat), parse d p = .ok (.first L data) →
    1 ≤ L ∧ L ≤ 2 ^ 32 - 1 ∧ (pciLength d p = 2 → L ≤ 4095) ∧ (d.length ≤ 64 → data.length ≤ 62)

/-- R211: the bytes of each variant, the width chosen by R126. -/
def Obligations.SerializedBytes : Prop :=
  (∀ data : Bytes, 1 ≤ data.length → data.length ≤ 7 → serialize (.single data) = some (byteOf data.length :: data)) ∧
  (∀ data : Bytes, 8 ≤ data.length → data.length ≤ 255 →
    serialize (.single data) = some (0x00 :: byteOf data.length :: data)) ∧
  (∀ (L : Nat) (data : Bytes), 1 ≤ L → L ≤ 4095 →
    serialize (.first L data) = some (byteOf (0x10 + L / 256) :: byteOf (L % 256) :: data)) ∧
  (∀ (L : Nat) (data : Bytes), 4096 ≤ L → L ≤ 2 ^ 32 - 1 →
    serialize (.first L data) = some (0x10 :: 0x00 :: byteOf (L / 2 ^ 24) :: byteOf (L / 2 ^ 16 % 256) ::
      byteOf (L / 2 ^ 8 % 256) :: byteOf (L % 256) :: data)) ∧
  (∀ (sn : BitVec 4) (data : Bytes), serialize (.consecutive sn data) = some (byteOf (0x20 + sn.toNat) :: data)) ∧
  (∀ (b : Byte) (n : Nat), n ≤ 127 →
    serialize (.flowControl ⟨.continueToSend, b, 1000 * n⟩) = some [0x30, b, byteOf n] ∧
    serialize (.flowControl ⟨.wait, b, 1000 * n⟩) = some [0x31, b, byteOf n] ∧
    serialize (.flowControl ⟨.overflow, b, 1000 * n⟩) = some [0x32, b, byteOf n]) ∧
  (∀ (b : Byte) (n : Nat), 1 ≤ n → n ≤ 9 →
    serialize (.flowControl ⟨.continueToSend, b, 100 * n⟩) = some [0x30, b, byteOf (0xF0 + n)] ∧
    serialize (.flowControl ⟨.wait, b, 100 * n⟩) = some [0x31, b, byteOf (0xF0 + n)] ∧
    serialize (.flowControl ⟨.overflow, b, 100 * n⟩) = some [0x32, b, byteOf (0xF0 + n)]) ∧
  (∀ C : ConfigRegs, serialize (.flowControl ⟨.continueToSend, C.blocksize, 1000 * C.stminMs.toNat⟩) =
    some [0x30, C.blocksize, C.stminMs.setWidth 8])

/-- R212, R125: a frame whose body fits is emitted under this side's ID, padded, with the FD flag of the mode. That one which
does not fit ends in the fault `encodeRawCapacity` is the model's choice, which R212 allows (log entry 12). -/
def Obligations.EncodeRawBuildsTheFrame : Prop :=
  ∀ (C : ConfigRegs) (f : Frame) (bytes : Bytes), ConfigInv C → serialize f = some bytes →
    ((txPayloadPrefix C.addr ++ bytes).length ≤ C.maxDataLength → encodeRaw C f = .ok (emitted C bytes)) ∧
    (C.maxDataLength < (txPayloadPrefix C.addr ++ bytes).length → encodeRaw C f = .error .encodeRawCapacity)

/-- R213 (a) to (c) (derived there): what is emitted parses back. -/
def Obligations.EmittedFrameParsesBack : Prop :=
  ∀ (C : ConfigRegs) (f : Frame) (r : RawFrame), encodeRaw C f = .ok r →
    let p := (txPayloadPrefix C.addr).length
    (∀ data, f = .single data → parse r.data p = .ok f) ∧
    (∀ fc, f = .flowControl fc → parse r.data p = .ok f) ∧
    (∀ L data, f = .first L data → serialize f = some (r.data.drop p) → parse r.data p = .ok f) ∧
    (∀ sn data, f = .consecutive sn data → ∃ k, parse r.data p = .ok (.consecutive sn (data ++ List.replicate k C.padByte)))

/-- R213 (d) (derived there): the mirrored peer accepts every frame this side emits, and R101, R75: what is emitted is a
well-formed RawFrame of an allowed length. -/
def Obligations.EmittedFrameIsWellFormedAndForThePeer : Prop :=
  ∀ (C : ConfigRegs) (f : Frame) (r : RawFrame), ConfigInv C → encodeRaw C f = .ok r →
    rawFrameOk r = true ∧ r.id = C.addr.txId ∧ (r.fd = true ↔ C.maxDataLength = 64) ∧
    r.data.length ≤ C.maxDataLength ∧
    (r.data.length ≤ 8 ∨ r.data.length ∈ [12, 16, 20, 24, 32, 48, 64]) ∧
    ∀ peer : Address, Mirrors C.addr peer → isForMe peer r = true

/-! ### Timer, FIFO, addressing -/

/-- R151, R152, R153: the three Timer operations, with the laws of expiry that R153 and R154 (derived there) give; R161, R162:
push at the tail, pop at the head, with the emptiness test and the laws of R163 (derived there). -/
def Obligations.TimerAndFifoOperations : Prop :=
  (∀ now d, armTimer now d = ⟨true, now, d⟩) ∧
  stopTimer = ⟨false, 0, 0⟩ ∧
  (∀ (T : Timer) (now : Nat), expired T now = true ↔ T.running = true ∧ T.start + T.timeout ≤ now) ∧
  (∀ n, expired stopTimer n = false) ∧
  (∀ a d n, expired (armTimer a d) n = true ↔ a + d ≤ n) ∧
  (∀ (T : Timer) (n m : Nat), expired T n = true → n ≤ m → expired T m = true) ∧
  (∀ q m, push q m = q ++ [m]) ∧
  pop [] = (none, []) ∧
  (∀ m q, pop (m :: q) = (some m, q)) ∧
  (∀ q, isEmpty q = true ↔ q = []) ∧
  (∀ m, pop (push [] m) = (some m, [])) ∧
  (∀ x q m, pop (push (x :: q) m) = (some x, push q m))

/-- R171 to R175: the functions of the Addressing unit, for an address that passes the construction check. That the functional
arbitration ID is `none` is the model's choice, which R173 allows (log entry 18). -/
def Obligations.AddressingFunctions : Prop :=
  ∀ a : Address, checkAddress a = .ok a →
    ((a.mode = .extended ∨ a.mode = .mixed) → ∃ e, a.ext = some e ∧ rxPrefixSize a = 1 ∧ txPayloadPrefix a = [e] ∧
      is29Bit a = a.id29 ∧ ∀ f : RawFrame, isForMe a f = true ↔ f.id = a.rxId ∧ ∃ rest, f.data = e :: rest) ∧
    (a.mode ≠ .extended → a.mode ≠ .mixed → rxPrefixSize a = 0 ∧ txPayloadPrefix a = [] ∧
      (is29Bit a = true ↔ a.mode ≠ .normal11Bit) ∧ ∀ f : RawFrame, isForMe a f = true ↔ f.id = a.rxId) ∧
    (txPayloadPrefix a).length = rxPrefixSize a ∧
    txArbitrationId a .physical = some a.txId ∧ txArbitrationId a .functional = none

/-- R176: the construction check, its three errors in order; after an error no Transport exists, and every operation other than
RESET is refused. -/
def Obligations.ConstructionCheckOrder : Prop :=
  ∀ a : Address,
    let w := if is29Bit a then 29 else 11
    let outOfRange := 2 ^ w ≤ a.txId ∨ 2 ^ w ≤ a.rxId
    let missing := (a.mode = .extended ∨ a.mode = .mixed) ∧ a.ext = none
    (outOfRange → checkAddress a = .error .idOutOfRange) ∧
    (¬outOfRange → a.txId = a.rxId → checkAddress a = .error .idCollision) ∧
    (¬outOfRange → a.txId ≠ a.rxId → missing → checkAddress a = .error .missingExtension) ∧
    (¬outOfRange → a.txId ≠ a.rxId → ¬missing → checkAddress a = .ok a) ∧
    (∀ (e : AddrError) (c : CfgArgs) (s : State), checkAddress a = .error e →
      ∃ t, exec (.reset a c) s = .next t ∧ t.reply = .addrError e ∧
        ∀ i : Instr, (∀ a' c', i ≠ .reset a' c') → exec i t = .refused .noTransport)

/-! ### Taking an exception -/

/-- R340, R341: the two reset sequences, every field they write, and nothing else. -/
def Obligations.ResetSequences : Prop :=
  ∀ s : State,
    rxReset s =
      { s with
        rxState := .idle, rxBuffer := [], rxFrameLen := 0, rxSeqNum := 0, rxBlockCounter := 0
        timerRxCF := ⟨false, 0, 0⟩, pendingFlowControlTx := false } ∧
    txReset s =
      { s with
        txState := .idle, txBuffer := [], txFrameLen := 0, txSeqNum := 0, txBlockCounter := 0, wftCounter := 0
        remoteBlocksize := 0, remoteStminUs := 0, timerRxFC := ⟨false, 0, 0⟩, timerTxStmin := ⟨false, 0, 0⟩ }

/-- R332, R333, R345: the numeric codes and the classes of the ten kinds, the numeric codes of the seven sub-codes and of the three
construction errors. -/
def Obligations.EventCodesAndClasses : Prop :=
  (∀ e, eventCode (.frameParseError e) = 0x01) ∧ eventCode .receptionInterruptedBySingleFrame = 0x02 ∧
  eventCode .receptionInterruptedByFirstFrame = 0x03 ∧ eventCode .unexpectedConsecutiveFrame = 0x04 ∧
  (∀ x y, eventCode (.wrongSequenceNumber x y) = 0x05) ∧ (∀ st, eventCode (.unexpectedFlowControl st) = 0x06) ∧
  eventCode .timeoutCF = 0x07 ∧ eventCode .timeoutFC = 0x08 ∧ (∀ n, eventCode (.maxWaitFramesExceeded n) = 0x09) ∧
  eventCode .overflowError = 0x0A ∧
  (∀ e, eventClass (.frameParseError e) = .frameParseError) ∧
  eventClass .receptionInterruptedBySingleFrame = .protocolViolation ∧
  eventClass .receptionInterruptedByFirstFrame = .protocolViolation ∧
  eventClass .unexpectedConsecutiveFrame = .protocolViolation ∧
  (∀ x y, eventClass (.wrongSequenceNumber x y) = .protocolViolation) ∧
  (∀ st, eventClass (.unexpectedFlowControl st) = .protocolViolation) ∧
  eventClass .timeoutCF = .timeoutError ∧ eventClass .timeoutFC = .timeoutError ∧
  (∀ n, eventClass (.maxWaitFramesExceeded n) = .timeoutError) ∧ eventClass .overflowError = .overflowError ∧
  parseErrorCode .payloadTooShort = 1 ∧ parseErrorCode .unsupportedPciType = 2 ∧
  parseErrorCode .zeroLengthSingleFrame = 3 ∧ parseErrorCode .lengthExceedsPayload = 4 ∧
  parseErrorCode .invalidLength = 5 ∧ parseErrorCode .invalidFlowStatus = 6 ∧ parseErrorCode .invalidStmin = 7 ∧
  addrErrorCode .idOutOfRange = 1 ∧ addrErrorCode .idCollision = 2 ∧ addrErrorCode .missingExtension = 3

/-! ### The receive machine -/

/-- R235: SF and SF_ESC, in either receive state; everything else is unchanged. `now` is no operand of the rule. -/
def Obligations.SingleFrameIsDelivered : Prop :=
  ∀ (data : Bytes) (s : State), s.live = true →
    let t := { rxReset s with
      inbound := s.inbound ++ [data]
      events := s.events ++ interruptEvents .receptionInterruptedBySingleFrame s }
    exec (.sf data) s = .next t ∧ exec (.sfEsc data) s = .next t

/-- R236: FF and FF_ESC, in either receive state: complete at once, or the start of a reassembly. -/
def Obligations.FirstFrameStartsOrCompletes : Prop :=
  ∀ (totalSize : Nat) (data : Bytes) (s : State), s.live = true →
    let s1 := { rxReset s with events := s.events ++ interruptEvents .receptionInterruptedByFirstFrame s }
    let done := { s1 with inbound := s.inbound ++ [data.take totalSize] }
    let started := { s1 with
      rxState := .waitCF, rxBuffer := data, rxFrameLen := totalSize, rxSeqNum := 1, pendingFlowControlTx := true }
    (totalSize ≤ data.length → exec (.ff totalSize data) s = .next done ∧ exec (.ffEsc totalSize data) s = .next done) ∧
    (data.length < totalSize →
      exec (.ff totalSize data) s = .next started ∧ exec (.ffEsc totalSize data) s = .next started)

/-- R237, R238: a ConsecutiveFrame in `Idle`, and one with the wrong sequence number. -/
def Obligations.ConsecutiveFrameViolations : Prop :=
  ∀ (sn : BitVec 4) (data : Bytes) (s : State), s.live = true →
    (s.rxState = .idle →
      exec (.cf sn data) s = .next { rxReset s with events := s.events ++ [.unexpectedConsecutiveFrame] }) ∧
    (s.rxState = .waitCF → sn ≠ s.rxSeqNum →
      exec (.cf sn data) s = .next { rxReset s with events := s.events ++ [.wrongSequenceNumber s.rxSeqNum sn] })

/-- R240: a ConsecutiveFrame with the expected number: the message complete; a block used up; in mid-block. -/
def Obligations.ConsecutiveFrameAccepted : Prop :=
  ∀ (data : Bytes) (s : State), s.live = true → s.rxState = .waitCF →
    let whole := s.rxBuffer ++ data.take (s.rxFrameLen - s.rxBuffer.length)
    let complete := s.rxFrameLen ≤ s.rxBuffer.length + data.length
    let full := s.C.blocksize.toNat ≠ 0 ∧ s.C.blocksize.toNat ≤ s.rxBlockCounter + 1
    (complete → exec (.cf s.rxSeqNum data) s = .next { rxReset s with inbound := s.inbound ++ [whole] }) ∧
    (¬complete → full →
      exec (.cf s.rxSeqNum data) s =
        .next { s with
          rxSeqNum := s.rxSeqNum + 1, rxBuffer := s.rxBuffer ++ data, rxBlockCounter := 0
          pendingFlowControlTx := true, timerRxCF := ⟨false, 0, 0⟩ }) ∧
    (¬complete → ¬full →
      exec (.cf s.rxSeqNum data) s =
        .next { s with
          rxSeqNum := s.rxSeqNum + 1, rxBuffer := s.rxBuffer ++ data, rxBlockCounter := s.rxBlockCounter + 1
          timerRxCF := ⟨true, s.clock, 1000 * s.C.cfTimeoutMs⟩ })

/-- R233: FC.CTS, FC.WAIT, FC.OVFLW into the mailbox; the CF timer armed on the first two in `WaitCF`. -/
def Obligations.FlowControlFrameIntoMailbox : Prop :=
  ∀ (bs : Byte) (u : Nat) (s : State), s.live = true →
    let boxed := fun st => { s with lastFlowControlFrame := some ⟨st, bs, u⟩ }
    let armed := fun st => { s with
      lastFlowControlFrame := some ⟨st, bs, u⟩, timerRxCF := ⟨true, s.clock, 1000 * s.C.cfTimeoutMs⟩ }
    exec (.fcOvflw bs u) s = .next (boxed .overflow) ∧
    (s.rxState = .idle →
      exec (.fcCts bs u) s = .next (boxed .continueToSend) ∧ exec (.fcWait bs u) s = .next (boxed .wait)) ∧
    (s.rxState = .waitCF →
      exec (.fcCts bs u) s = .next (armed .continueToSend) ∧ exec (.fcWait bs u) s = .next (armed .wait))

/-- R230, the wire side of a step: a frame for this side that decodes to a wire instruction runs it, after the timeout check of
R232, at the `now` of the call. -/
def Obligations.ReceivedFrameRunsItsInstruction : Prop :=
  ∀ (now : Nat) (f : RawFrame) (i : Instr) (s t : State), canProcess now (some f) s → isForMe s.C.addr f = true →
    decodeWire f.data (rxPrefixSize s.C.addr) = .ok i → AfterCfTimeout now s t →
    exec (.processRx now (some f)) s = exec i t

/-- R230, R231, R232: no frame, a frame for someone else, a frame that does not parse: only the timeout check is made, after the
parse event. -/
def Obligations.ReceivePhaseWithoutUsableFrame : Prop :=
  ∀ (now : Nat) (s t : State), AfterCfTimeout now s t →
    (canProcess now none s → exec (.processRx now none) s = .next t) ∧
    (∀ f, canProcess now (some f) s → isForMe s.C.addr f = false → exec (.processRx now (some f)) s = .next t) ∧
    (∀ f e, canProcess now (some f) s → isForMe s.C.addr f = true →
      parse f.data (rxPrefixSize s.C.addr) = .error e →
      exec (.processRx now (some f)) s = .next { t with events := .frameParseError e :: t.events })

/-- R230, R280: the receive phase emits nothing, writes no transmit register and no configuration, and takes nothing from the
outbound queue. -/
def Obligations.ReceivePhaseLeavesTransmitSide : Prop :=
  ∀ (now : Nat) (rx : Option RawFrame) (s t : State), exec (.processRx now rx) s = .next t →
    SameTransmitSide s t ∧ t.C = s.C ∧ t.live = s.live ∧ t.program = s.program ∧ t.txFrame = none ∧ t.reply = .nothing ∧
    t.clock = now

/-- R44, R230: the receive path never reads `C.maxDataLength`: calls on two states that differ in it alone differ in it alone. -/
def Obligations.ReceivePhaseIgnoresCapacity : Prop :=
  ∀ (now M : Nat) (rx : Option RawFrame) (s t : State), exec (.processRx now rx) s = .next t →
    exec (.processRx now rx) { s with C.maxDataLength := M } = .next { t with C.maxDataLength := M }

/-- R246, the transition table of the receive machine: when a receive phase ends in `WaitCF`. -/
def Obligations.ReceiveTransitions : Prop :=
  ∀ (now : Nat) (rx : Option RawFrame) (s t : State), exec (.processRx now rx) s = .next t →
    (t.rxState = .waitCF ↔
      (∃ f L data, rx = some f ∧ isForMe s.C.addr f = true ∧
        parse f.data (rxPrefixSize s.C.addr) = .ok (.first L data) ∧ data.length < L) ∨
      (s.rxState = .waitCF ∧ ¬ deadlinePassed s.timerRxCF now ∧
        ((∀ f, rx = some f → isForMe s.C.addr f = true →
            ∀ g, parse f.data (rxPrefixSize s.C.addr) ≠ .ok g) ∨
         (∃ f fc, rx = some f ∧ isForMe s.C.addr f = true ∧
            parse f.data (rxPrefixSize s.C.addr) = .ok (.flowControl fc)) ∨
         (∃ f data, rx = some f ∧ isForMe s.C.addr f = true ∧
            parse f.data (rxPrefixSize s.C.addr) = .ok (.consecutive s.rxSeqNum data) ∧
            s.rxBuffer.length + data.length < s.rxFrameLen))))

/-- R247: a receive phase delivers at most one message, at the tail of the queue, and never part of one: a reassembled message
has exactly its declared length. -/
def Obligations.DeliveryIsWhole : Prop :=
  ∀ (now : Nat) (rx : Option RawFrame) (s t : State), Inv s → exec (.processRx now rx) s = .next t →
    t.inbound = s.inbound ∨
    ∃ f m, rx = some f ∧ isForMe s.C.addr f = true ∧ t.inbound = s.inbound ++ [m] ∧ t.rxState = .idle ∧
      (parse f.data (rxPrefixSize s.C.addr) = .ok (.single m) ∨
       (∃ L data, parse f.data (rxPrefixSize s.C.addr) = .ok (.first L data) ∧ m = data.take L ∧ m.length = L) ∨
       (∃ data k, parse f.data (rxPrefixSize s.C.addr) = .ok (.consecutive s.rxSeqNum data) ∧ s.rxState = .waitCF ∧
          m = s.rxBuffer ++ data.take k ∧ m.length = s.rxFrameLen))

/-! ### The transmit machine -/

/-- R263: with the pending flag set the call emits this side's flow-control frame and does nothing else. -/
def Obligations.PendingFlowControlPreempts : Prop :=
  ∀ (now : Nat) (s : State), canProcess now none s → ConfigInv s.C → s.pendingFlowControlTx = true →
    exec (.processTx now) s =
      .next { atOp now s with
        pendingFlowControlTx := false
        timerRxCF := ⟨true, now, 1000 * s.C.cfTimeoutMs⟩
        txFrame := some (emitted s.C [0x30, s.C.blocksize, s.C.stminMs.setWidth 8]) }

/-- R265: a ContinueToSend found by a send in progress; the call then goes on from the state it leaves. -/
def Obligations.GrantIsAdopted : Prop :=
  ∀ (now : Nat) (bs : Byte) (u : Nat) (s : State), canProcess now none s → finds ⟨.continueToSend, bs, u⟩ s →
    s.txState ≠ .idle →
    exec (.processTx now) s =
      exec (.processTx now)
        { s with
          lastFlowControlFrame := none, wftCounter := 0, remoteBlocksize := bs, remoteStminUs := u
          txState := .transmit, txBlockCounter := 0, timerRxFC := ⟨false, 0, 0⟩, timerTxStmin := ⟨true, now, 0⟩ }

/-- R266: a Wait found by a send in progress: counted, then the send is aborted or its deadline set afresh. -/
def Obligations.WaitIsCountedOrAborts : Prop :=
  ∀ (now : Nat) (bs : Byte) (u : Nat) (s : State), canProcess now none s → finds ⟨.wait, bs, u⟩ s → s.txState ≠ .idle →
    (s.wftCounter + 1 ≤ s.C.wftMax →
      exec (.processTx now) s =
        exec (.processTx now)
          { s with
            lastFlowControlFrame := none, wftCounter := s.wftCounter + 1
            timerRxFC := ⟨true, now, 1000 * s.C.fcTimeoutMs⟩ }) ∧
    (s.C.wftMax < s.wftCounter + 1 →
      exec (.processTx now) s =
        eventsBefore [.maxWaitFramesExceeded (s.wftCounter + 1)]
          (exec (.processTx now) (txReset { s with lastFlowControlFrame := none })))

/-- R267, R268: an Overflow aborts the send; any flow-control frame in `Idle` is a warning and nothing else. -/
def Obligations.OverflowAbortsAndIdleWarns : Prop :=
  ∀ (now : Nat) (fc : FlowControl) (s : State), canProcess now none s → finds fc s →
    (s.txState ≠ .idle → fc.flowStatus = .overflow →
      exec (.processTx now) s =
        eventsBefore [.overflowError] (exec (.processTx now) (txReset { s with lastFlowControlFrame := none }))) ∧
    (s.txState = .idle →
      exec (.processTx now) s =
        eventsBefore [.unexpectedFlowControl fc.flowStatus]
          (exec (.processTx now) { s with lastFlowControlFrame := none }))

/-- R269: the flow-control timeout, with an empty mailbox (a frame found there comes first). -/
def Obligations.FlowControlTimeoutAborts : Prop :=
  ∀ (now : Nat) (s : State), canProcess now none s → s.pendingFlowControlTx = false → s.lastFlowControlFrame = none →
    deadlinePassed s.timerRxFC now →
    exec (.processTx now) s = eventsBefore [.timeoutFC] (exec (.processTx now) (txReset s))

/-- R270, R273, R274: the calls of step 4 that emit nothing: `Idle` with no message, `WaitFC`, `Transmit` before the pacing
timer has elapsed. -/
def Obligations.TransmitPhaseHasNothingToSend : Prop :=
  ∀ (now : Nat) (s : State), canProcess now none s → reachesStepFour now s →
    (s.txState = .idle ∧ s.outbound = [] ∨ s.txState = .waitFC ∨
      s.txState = .transmit ∧ ¬ deadlinePassed s.timerTxStmin now) →
    exec (.processTx now) s = .next (atOp now s)

/-- R270, R272: a message that fits goes out as one SingleFrame and nothing else is written. -/
def Obligations.SingleFrameSend : Prop :=
  ∀ (now : Nat) (m : Bytes) (q : List Bytes) (s : State), canProcess now none s → ConfigInv s.C → reachesStepFour now s →
    s.txState = .idle → s.outbound = m :: q → 1 ≤ m.length →
    (txPayloadPrefix s.C.addr).length + (if m.length ≤ 7 then 1 else 2) + m.length ≤ s.C.maxDataLength →
    exec (.processTx now) s =
      .next { atOp now s with
        outbound := q
        txFrame := some (emitted s.C
          (if m.length ≤ 7 then byteOf m.length :: m else 0x00 :: byteOf m.length :: m)) }

/-- R271: a message that does not fit starts a multi-frame send; the FirstFrame fills the payload and bytes are left. -/
def Obligations.MultiFrameStart : Prop :=
  ∀ (now : Nat) (m : Bytes) (q : List Bytes) (s : State), canProcess now none s → ConfigInv s.C → reachesStepFour now s →
    s.txState = .idle → s.outbound = m :: q → m.length ≤ 2 ^ 32 - 1 →
    s.C.maxDataLength < (txPayloadPrefix s.C.addr).length + (if m.length ≤ 7 then 1 else 2) + m.length →
    let k := s.C.maxDataLength - (txPayloadPrefix s.C.addr).length - (if m.length ≤ 4095 then 2 else 6)
    let pci : Bytes :=
      if m.length ≤ 4095 then [byteOf (0x10 + m.length / 256), byteOf (m.length % 256)]
      else [0x10, 0x00, byteOf (m.length / 2 ^ 24), byteOf (m.length / 2 ^ 16 % 256),
        byteOf (m.length / 2 ^ 8 % 256), byteOf (m.length % 256)]
    exec (.processTx now) s =
      .next { atOp now s with
        outbound := q, txFrameLen := m.length, txBuffer := m.drop k, txSeqNum := 1, txState := .waitFC
        timerRxFC := ⟨true, now, 1000 * s.C.fcTimeoutMs⟩
        txFrame := some (emitted s.C (pci ++ m.take k)) } ∧
    (emitted s.C (pci ++ m.take k)).data = txPayloadPrefix s.C.addr ++ pci ++ m.take k ∧
    (emitted s.C (pci ++ m.take k)).data.length = s.C.maxDataLength ∧ m.drop k ≠ []

/-- R274: the pacing timer has not elapsed and nothing happens; or a ConsecutiveFrame goes out: the send complete; the block used
up; in mid-block. -/
def Obligations.ConsecutiveFrameEmission : Prop :=
  ∀ (now : Nat) (s : State), canProcess now none s → ConfigInv s.C → reachesStepFour now s → s.txState = .transmit →
    let c := s.C.maxDataLength - (txPayloadPrefix s.C.addr).length - 1
    let out := emitted s.C (byteOf (0x20 + s.txSeqNum.toNat) :: s.txBuffer.take c)
    let full := s.remoteBlocksize.toNat ≠ 0 ∧ s.remoteBlocksize.toNat ≤ s.txBlockCounter + 1
    let sent := { atOp now s with
      txBuffer := s.txBuffer.drop c, txSeqNum := s.txSeqNum + 1, timerTxStmin := ⟨true, now, s.remoteStminUs⟩
      txBlockCounter := s.txBlockCounter + 1, txFrame := some out }
    let elapsed := deadlinePassed s.timerTxStmin now
    (¬elapsed → exec (.processTx now) s = .next (atOp now s)) ∧
    (elapsed → s.txBuffer.length ≤ c →
      exec (.processTx now) s = .next { txReset (atOp now s) with txFrame := some out }) ∧
    (elapsed → c < s.txBuffer.length → full →
      exec (.processTx now) s =
        .next { sent with txState := .waitFC, timerRxFC := ⟨true, now, 1000 * s.C.fcTimeoutMs⟩ }) ∧
    (elapsed → c < s.txBuffer.length → ¬full → exec (.processTx now) s = .next sent)

/-- R260: the transmit phase writes no receive register other than the pending flag and the CF timer, and those only when it
serves the flag; it takes at most the head of the outbound queue. -/
def Obligations.TransmitPhaseLeavesReceiveSide : Prop :=
  ∀ (now : Nat) (s t : State), exec (.processTx now) s = .next t →
    SameReceiveRegisters s t ∧ t.C = s.C ∧ t.live = s.live ∧ t.program = s.program ∧ t.reply = .nothing ∧ t.clock = now ∧
    (s.pendingFlowControlTx = false → t.pendingFlowControlTx = false ∧ t.timerRxCF = s.timerRxCF) ∧
    (s.pendingFlowControlTx = true → SameTransmitSide s t ∧ t.lastFlowControlFrame = s.lastFlowControlFrame) ∧
    (t.outbound = s.outbound ∨ ∃ m, s.outbound = m :: t.outbound)

/-- R281: every entry into `Transmit` is through a ContinueToSend found in the mailbox. -/
def Obligations.TransmitEnteredOnlyByGrant : Prop :=
  ∀ (now : Nat) (s t : State), exec (.processTx now) s = .next t → t.txState = .transmit → s.txState ≠ .transmit →
    s.pendingFlowControlTx = false ∧ s.txState = .waitFC ∧
    ∃ fc, s.lastFlowControlFrame = some fc ∧ fc.flowStatus = .continueToSend ∧
      t.remoteBlocksize = fc.blockSize ∧ t.remoteStminUs = fc.stminUs

/-! ### The host operations -/

/-- A step: the operation at the head of the program is decoded and executed on the state without it (log entry 1). -/
def Obligations.StepRunsDecodedInstruction : Prop :=
  ∀ (c : Command) (rest : List Command) (i : Instr) (s : State), s.program = c :: rest → decodeCommand c = .ok i →
    step s = exec i { s with program := rest }

/-- R135: the eight command codes select the eight operations, and a command with a reserved code is refused. -/
def Obligations.CommandCodes : Prop :=
  ∀ (c : Command) (rest : List Command) (s : State), s.program = c :: rest →
    let t := { s with program := rest }
    (c.code = 0 → step s = exec (.reset c.addrCfg c.cfg) t) ∧ (c.code = 1 → step s = exec (.send c.payload) t) ∧
    (c.code = 2 → step s = exec .receive t) ∧ (c.code = 3 → step s = exec (.setFdMode c.on) t) ∧
    (c.code = 4 → step s = exec (.process c.now c.rxFrame) t) ∧ (c.code = 5 → step s = exec (.processRx c.now c.rxFrame) t) ∧
    (c.code = 6 → step s = exec (.processTx c.now) t) ∧ (c.code = 7 → step s = exec (.cfgWrite c.reg c.value) t) ∧
    (8 ≤ c.code.toNat → step s = .refused (.reservedCommand c.code))

/-- R301, R60: RESET with a legal address and legal values answers `ok` and leaves exactly the state of R60, with the given
registers and the defaults. The clauses on the model's own fields are the model's choice: the rest of the program is still to
run (log entry 1), a Transport exists (log entry 3), the clock sample starts anew at 0 (log entry 4), the results other than the
`ok` are empty (log entry 5). -/
def Obligations.ResetConstructs : Prop :=
  ∀ (a : Address) (c : CfgArgs) (s : State), checkAddress a = .ok a →
    c.blocksize ≤ 255 → c.stminMs ≤ 127 → (∀ b, c.padByte = some b → b ≤ 255) →
    ∃ t, exec (.reset a c) s = .next t ∧
      t.rxState = .idle ∧ t.txState = .idle ∧ t.rxBuffer = [] ∧ t.txBuffer = [] ∧ t.rxFrameLen = 0 ∧ t.txFrameLen = 0 ∧
      t.rxSeqNum = 0 ∧ t.txSeqNum = 0 ∧ t.rxBlockCounter = 0 ∧ t.txBlockCounter = 0 ∧ t.remoteBlocksize = 0 ∧
      t.remoteStminUs = 0 ∧ t.wftCounter = 0 ∧ t.pendingFlowControlTx = false ∧ t.lastFlowControlFrame = none ∧
      t.timerRxCF = ⟨false, 0, 0⟩ ∧ t.timerRxFC = ⟨false, 0, 0⟩ ∧ t.timerTxStmin = ⟨false, 0, 0⟩ ∧
      t.inbound = [] ∧ t.outbound = [] ∧
      t.C.blocksize.toNat = c.blocksize ∧ t.C.stminMs.toNat = c.stminMs ∧ t.C.wftMax = c.wftMax ∧
      t.C.cfTimeoutMs = c.cfTimeoutMs.getD 1000 ∧ t.C.fcTimeoutMs = c.fcTimeoutMs.getD 1000 ∧
      t.C.padByte.toNat = c.padByte.getD 0xCC ∧ t.C.maxDataLength = 8 ∧ t.C.addr = a ∧
      t.live = true ∧ t.reply = .ok ∧ t.clock = 0 ∧ t.txFrame = none ∧ t.events = [] ∧ t.program = s.program

/-- R176, R301: an address that fails the check is the result, and no Transport exists; a value out of range is refused. -/
def Obligations.ResetFailures : Prop :=
  ∀ (a : Address) (c : CfgArgs) (s : State),
    (∀ e, checkAddress a = .error e →
      exec (.reset a c) s = .next { atCall s with live := false, reply := .addrError e }) ∧
    (checkAddress a = .ok a → (255 < c.blocksize ∨ 127 < c.stminMs ∨ ∃ b, c.padByte = some b ∧ 255 < b) →
      exec (.reset a c) s = .refused .resetValueOutOfRange)

/-- R370: before the first successful RESET every other operation is refused. -/
def Obligations.NoTransportRefusesAll : Prop :=
  ∀ (i : Instr) (s : State), s.live = false → (∀ a c, i ≠ .reset a c) → exec i s = .refused .noTransport

/-- R305: SEND. -/
def Obligations.SendEnqueues : Prop :=
  ∀ (m : Bytes) (s : State), s.live = true →
    (1 ≤ m.length → m.length ≤ 2 ^ 32 - 1 →
      exec (.send m) s = .next { atCall s with outbound := s.outbound ++ [m] }) ∧
    ((m.length = 0 ∨ 2 ^ 32 - 1 < m.length) → exec (.send m) s = .refused .sendLength)

/-- R306: RECEIVE. -/
def Obligations.ReceiveDequeues : Prop :=
  ∀ s : State, s.live = true →
    (s.inbound = [] → exec .receive s = .next { atCall s with reply := .message none }) ∧
    (∀ m q, s.inbound = m :: q → exec .receive s = .next { atCall s with inbound := q, reply := .message (some m) })

/-- R307: SET_FD_MODE. -/
def Obligations.SetFdModeWritesCapacity : Prop :=
  ∀ (on : Bool) (s : State), s.live = true →
    exec (.setFdMode on) s = .next { atCall s with C.maxDataLength := if on then 64 else 8 }

/-- R308: CFG_WRITE, register by register. -/
def Obligations.CfgWriteWritesOneRegister : Prop :=
  ∀ (v : Nat) (s : State), s.live = true →
    (v ≤ 255 → exec (.cfgWrite 0 v) s = .next { atCall s with C.blocksize := BitVec.ofNat 8 v } ∧
      exec (.cfgWrite 5 v) s = .next { atCall s with C.padByte := BitVec.ofNat 8 v }) ∧
    (v ≤ 127 → exec (.cfgWrite 1 v) s = .next { atCall s with C.stminMs := BitVec.ofNat 7 v }) ∧
    exec (.cfgWrite 2 v) s = .next { atCall s with C.wftMax := v } ∧
    exec (.cfgWrite 3 v) s = .next { atCall s with C.cfTimeoutMs := v } ∧
    exec (.cfgWrite 4 v) s = .next { atCall s with C.fcTimeoutMs := v } ∧
    (255 < v → exec (.cfgWrite 0 v) s = .refused .cfgWriteIllegal ∧ exec (.cfgWrite 5 v) s = .refused .cfgWriteIllegal) ∧
    (127 < v → exec (.cfgWrite 1 v) s = .refused .cfgWriteIllegal) ∧
    (∀ reg, 6 ≤ reg → exec (.cfgWrite reg v) s = .refused .cfgWriteIllegal)

/-- R309, R101: a process operation whose `now` is below an earlier one, or whose frame is ill formed, is refused. -/
def Obligations.ProcessRefusals : Prop :=
  ∀ (now : Nat) (rx : Option RawFrame) (s : State), s.live = true →
    (now < s.clock → (∃ r, exec (.process now rx) s = .refused r) ∧ (∃ r, exec (.processRx now rx) s = .refused r) ∧
      exec (.processTx now) s = .refused .clockWentBack) ∧
    (∀ f, rx = some f → (2 ^ 29 ≤ f.id ∨ 64 < f.data.length ∨ f.fd = false ∧ 8 < f.data.length) →
      exec (.process now rx) s = .refused .illFormedFrame ∧ exec (.processRx now rx) s = .refused .illFormedFrame)

/-- Completion of the three process operations: in a state with the invariant each answers a next state, for every frame that is
absent or well formed and every `now` that does not go back (R300, R302, R303, R309; R275 derives that no frame is too long). -/
def Obligations.ProcessOperationsComplete : Prop :=
  ∀ (now : Nat) (rx : Option RawFrame) (s : State), Inv s → canProcess now rx s →
    (∃ t, exec (.process now rx) s = .next t ∧ t.clock = now ∧ t.C = s.C) ∧
    (∃ t, exec (.processRx now rx) s = .next t ∧ t.clock = now ∧ t.txFrame = none) ∧
    (∃ t, exec (.processTx now) s = .next t ∧ t.clock = now ∧ t.inbound = s.inbound)

/-- R300: PROCESS is PROCESS_RX followed by PROCESS_TX at the same `now`, the events in that order; on a live Transport it is
refused exactly for an ill-formed frame or a `now` below an earlier one. -/
def Obligations.ProcessIsReceiveThenTransmit : Prop :=
  ∀ (now : Nat) (rx : Option RawFrame) (s : State),
    (∀ t, exec (.processRx now rx) s = .next t →
      exec (.process now rx) s = eventsBefore t.events (exec (.processTx now) t)) ∧
    (s.live = true →
      ((∃ r, exec (.process now rx) s = .refused r) ↔ (∃ f, rx = some f ∧ rawFrameOk f = false) ∨ now < s.clock))

/-- R331: no rule reads an event, nor any other result: what a host operation does is the same whatever the results of the
operation before were. -/
def Obligations.ResultsNeverInfluenceOperations : Prop :=
  ∀ (i : Instr) (s : State) (tx : Option RawFrame) (es : List Event) (rp : Reply), i.isWire = false →
    exec i { s with txFrame := tx, events := es, reply := rp } = exec i s

/-! ### The whole machine -/

/-- R50: the reset state has the invariant. -/
def Obligations.ResetStateHasInvariant : Prop := Inv State.reset

/-- R50: every step keeps the invariant, from every state that has it. -/
def Obligations.EveryStepKeepsInvariant : Prop :=
  ∀ s t : State, Inv s → step s = .next t → Inv t

/-- R275: in a state with the invariant no step faults: every frame the block builds can be encoded and fits. -/
def Obligations.InvariantStatesNeverFault : Prop :=
  ∀ (s : State) (f : Fault), Inv s → step s ≠ .fault f

/-- R27: the wait counter stays at or below `C.wftMax` under every host operation but CFG_WRITE (which may lower `C.wftMax`:
log entry 13). -/
def Obligations.WaitCounterStaysBounded : Prop :=
  ∀ (i : Instr) (s t : State), Inv s → s.wftCounter ≤ s.C.wftMax → (∀ reg v, i ≠ .cfgWrite reg v) →
    exec i s = .next t → t.wftCounter ≤ t.C.wftMax

/-- R379 (derived there): in a quiescent state a PROCESS with no frame changes nothing, at every `now`. -/
def Obligations.QuiescentProcessChangesNothing : Prop :=
  ∀ (now : Nat) (s : State), Inv s → quiescent s → canProcess now none s →
    exec (.process now none) s = .next (atOp now s)

/-- R390 (derived there), the receive side: with no frames arriving, after a first call a reception in progress is over at any
call that comes both one CF timeout after that first call and at or after the CF deadline already set before it. The second
bound is needed because CFG_WRITE may lower the CF timeout and an armed timer keeps its own (R43). -/
def Obligations.SilentReceptionEnds : Prop :=
  ∀ (n m : Nat) (s t u : State), Inv s → canProcess n none s → exec (.process n none) s = .next t →
    n + 1000 * s.C.cfTimeoutMs ≤ m → s.timerRxCF.start + s.timerRxCF.timeout ≤ m →
    exec (.process m none) t = .next u → u.rxState = .idle ∧ u.inbound = s.inbound

/-- T1 of the source (`95_test_vectors.md`): a message within single-frame capacity leaves in one frame, and the mirrored peer
delivers the identical bytes. -/
def Obligations.SingleFrameLoopback : Prop :=
  ∀ (now n2 : Nat) (m : Bytes) (q : List Bytes) (a b : State), canProcess now none a → ConfigInv a.C →
    reachesStepFour now a → a.txState = .idle → a.outbound = m :: q → 1 ≤ m.length →
    (txPayloadPrefix a.C.addr).length + (if m.length ≤ 7 then 1 else 2) + m.length ≤ a.C.maxDataLength →
    b.live = true → b.clock ≤ n2 → b.rxState = .idle → Mirrors a.C.addr b.C.addr →
    ∃ a' f b', exec (.processTx now) a = .next a' ∧ a'.txFrame = some f ∧ a'.outbound = q ∧
      exec (.processRx n2 (some f)) b = .next b' ∧ b'.inbound = b.inbound ++ [m] ∧ b'.events = []

/-- T2 of the source (`95_test_vectors.md`): a message of any legal length, sent between two mirrored Transports that are called
in turn no further apart than the receiver's CF timeout and no closer than its STmin, arrives whole, and both end idle. -/
def Obligations.MessageLoopback : Prop :=
  ∀ (gap t0 : Nat) (m : Bytes) (a b : State), Inv a → Inv b → a.live = true → b.live = true →
    a.clock ≤ t0 → b.clock ≤ t0 → quiescent b → a.txState = .idle → a.rxState = .idle →
    a.pendingFlowControlTx = false → a.lastFlowControlFrame = none → a.outbound = [m] →
    Mirrors a.C.addr b.C.addr →
    1000 * b.C.stminMs.toNat ≤ gap → gap < 1000 * b.C.cfTimeoutMs →
    ∃ n a' b', exchanges gap n t0 a b none = some (a', b') ∧ b'.inbound = b.inbound ++ [m] ∧
      a'.txState = .idle ∧ a'.outbound = [] ∧ b'.rxState = .idle ∧ a'.inbound = a.inbound
end

