-- ==== Sys2Proof/Laws/Codec.lean ====
section
/-! SUPPORT. The codec: what `parse` makes of each first byte, what the encoder's fields decode to, and everything
`encodeRaw` can answer. -/

namespace Sys2Proof

open Machine

/-! ### Fields -/

theorem byteOf_toNat (n : Nat) : (byteOf n).toNat = n % 256 := by simp [byteOf]

theorem byteOf_toNat_of_lt {n : Nat} (h : n < 256) : (byteOf n).toNat = n := by rw [byteOf_toNat]; omega

theorem byteOf_byte (b : Byte) : byteOf b.toNat = b := by simp [byteOf]

theorem highNibble_byteOf {n : Nat} (h : n < 256) : highNibble (byteOf n) = n / 16 := by
  rw [highNibble, byteOf_toNat_of_lt h]

theorem lowNibble_byteOf {n : Nat} (h : n < 256) : lowNibble (byteOf n) = n % 16 := by
  rw [lowNibble, byteOf_toNat_of_lt h]

theorem lowNibble_lt (b : Byte) : lowNibble b < 16 := Nat.mod_lt _ (by decide)

theorem highNibble_lt (b : Byte) : highNibble b < 16 := by
  have := b.isLt
  simp only [highNibble]; omega

theorem byteOf_nibbles (b : Byte) : byteOf (16 * highNibble b + lowNibble b) = b := by
  rw [highNibble, lowNibble, Nat.div_add_mod]; exact byteOf_byte b

/-- The 12-bit length of a FirstFrame. -/
theorem ffDlShort_byteOf {L : Nat} : ffDlShort (L / 256) (byteOf (L % 256)) = L := by
  rw [ffDlShort, byteOf_toNat]; omega

/-- The 32-bit length of a FirstFrame. -/
theorem ffDlEsc_byteOf {L : Nat} (h : L ≤ Config.msgLenMax) :
    ffDlEsc (byteOf (L / 2 ^ 24)) (byteOf (L / 2 ^ 16 % 256)) (byteOf (L / 2 ^ 8 % 256)) (byteOf (L % 256)) = L := by
  simp only [Config.msgLenMax] at h
  simp only [ffDlEsc, byteOf_toNat]; omega

theorem ffDlShort_lt {lo : Nat} (h : lo < 16) (b : Byte) : ffDlShort lo b ≤ 4095 := by
  have := b.isLt
  simp only [ffDlShort]; omega

theorem ffDlEsc_le (b2 b3 b4 b5 : Byte) : ffDlEsc b2 b3 b4 b5 ≤ Config.msgLenMax := by
  have := b2.isLt; have := b3.isLt; have := b4.isLt; have := b5.isLt
  simp only [ffDlEsc, Config.msgLenMax]; omega

/-- A separation time is legal exactly when it is whole milliseconds up to 127, or whole hundreds of microseconds below one
millisecond. -/
theorem stminLegal_iff (u : Nat) :
    stminLegal u = true ↔ (∃ n, n ≤ 127 ∧ u = 1000 * n) ∨ (∃ n, 1 ≤ n ∧ n ≤ 9 ∧ u = 100 * n) := by
  simp only [stminLegal, Bool.or_eq_true, Bool.and_eq_true, beq_iff_eq, decide_eq_true_eq]
  constructor
  · rintro (⟨h, h2⟩ | ⟨⟨h, h2⟩, h3⟩)
    · exact .inl ⟨u / 1000, by omega, by omega⟩
    · exact .inr ⟨u / 100, by omega, by omega, by omega⟩
  · rintro (⟨n, h, rfl⟩ | ⟨n, h, h2, rfl⟩)
    · exact .inl ⟨by omega, by omega⟩
    · exact .inr ⟨⟨by omega, by omega⟩, by omega⟩

theorem stminCode_ms {n : Nat} : stminCode (1000 * n) = n := by simp only [stminCode]; rw [if_pos (by omega)]; omega

theorem stminCode_us {n : Nat} (h1 : 1 ≤ n) (h2 : n ≤ 9) : stminCode (100 * n) = 0xF0 + n := by
  simp only [stminCode]; rw [if_neg (by omega)]; omega

/-- The STmin code of a legal separation time decodes to it. -/
theorem stminOf_stminCode {u : Nat} (h : stminLegal u = true) : stminOf (byteOf (stminCode u)) = some u := by
  obtain ⟨n, hn, rfl⟩ | ⟨n, h1, hn, rfl⟩ := (stminLegal_iff u).1 h
  · rw [stminCode_ms, stminOf, byteOf_toNat_of_lt (by omega), if_pos (by omega)]
  · rw [stminCode_us h1 hn, stminOf, byteOf_toNat_of_lt (by omega), if_neg (by omega), if_pos (by omega),
      Nat.add_sub_cancel_left]

/-- What decodes to a separation time decodes to a legal one. -/
theorem stminOf_legal {c : Byte} {u : Nat} (h : stminOf c = some u) : stminLegal u = true := by
  simp only [stminOf] at h
  rw [stminLegal_iff]
  split at h
  · exact .inl ⟨c.toNat, by omega, by simp at h; omega⟩
  · split at h
    · exact .inr ⟨c.toNat - 0xF0, by omega, by omega, by simp at h; omega⟩
    · simp at h

theorem flowStatusOf_code (st : FlowStatus) : flowStatusOf (flowStatusCode st) = some st := by cases st <;> rfl

theorem flowStatusCode_lt (st : FlowStatus) : flowStatusCode st < 3 := by cases st <;> decide

/-! ### parse -/

theorem parse_append (lead d : Bytes) : parse (lead ++ d) lead.length = parse d 0 := by simp [parse]

theorem pciLength_append (lead d : Bytes) : pciLength (lead ++ d) lead.length = pciLength d 0 := by simp [pciLength]

theorem parse_eq_drop (d : Bytes) (p : Nat) : parse d p = parse (d.drop p) 0 := by simp [parse]

theorem pciLength_eq_drop (d : Bytes) (p : Nat) : pciLength d p = pciLength (d.drop p) 0 := by simp [pciLength]

theorem parse_nil : parse [] 0 = .error .payloadTooShort := rfl

/-- Type 0 with a length. -/
theorem parse_type0 {lo : Nat} (h1 : 1 ≤ lo) (h2 : lo ≤ 15) (rest : Bytes) :
    parse (byteOf lo :: rest) 0 = parseSf lo rest := by
  simp only [parse, List.drop_zero, highNibble_byteOf (show lo < 256 by omega), lowNibble_byteOf (show lo < 256 by omega)]
  rw [show lo / 16 = 0 by omega, show lo % 16 = lo by omega]
  simp only
  rw [if_neg (by omega)]

/-- Type 0 with the escape marker. -/
theorem parse_escape (rest : Bytes) : parse (0x00 :: rest) 0 = parseSfEsc rest := rfl

/-- Type 1. -/
theorem parse_type1 {hi : Nat} (h : hi ≤ 15) (rest : Bytes) :
    parse (byteOf (0x10 + hi) :: rest) 0 = parseFf hi rest := by
  simp only [parse, List.drop_zero, highNibble_byteOf (show 0x10 + hi < 256 by omega),
    lowNibble_byteOf (show 0x10 + hi < 256 by omega)]
  rw [show (0x10 + hi) / 16 = 1 by omega, show (0x10 + hi) % 16 = hi by omega]
  rfl

/-- Type 2. -/
theorem parse_type2 (sn : BitVec 4) (rest : Bytes) :
    parse (byteOf (0x20 + sn.toNat) :: rest) 0 = .ok (.consecutive sn rest) := by
  have := sn.isLt
  simp only [parse, List.drop_zero, highNibble_byteOf (show 0x20 + sn.toNat < 256 by omega),
    lowNibble_byteOf (show 0x20 + sn.toNat < 256 by omega)]
  rw [show (0x20 + sn.toNat) / 16 = 2 by omega, show (0x20 + sn.toNat) % 16 = sn.toNat by omega]
  simp

/-- Type 3. -/
theorem parse_type3 {lo : Nat} (h : lo ≤ 15) (rest : Bytes) :
    parse (byteOf (0x30 + lo) :: rest) 0 = parseFc lo rest := by
  simp only [parse, List.drop_zero, highNibble_byteOf (show 0x30 + lo < 256 by omega),
    lowNibble_byteOf (show 0x30 + lo < 256 by omega)]
  rw [show (0x30 + lo) / 16 = 3 by omega, show (0x30 + lo) % 16 = lo by omega]
  rfl

/-- Every other type. -/
theorem parse_unsupported {b0 : Byte} (h : 0x40 ≤ b0.toNat) (rest : Bytes) :
    parse (b0 :: rest) 0 = .error .unsupportedPciType := by
  have h4 : 4 ≤ highNibble b0 := by simp only [highNibble]; omega
  simp only [parse, List.drop_zero]
  generalize highNibble b0 = n at h4
  match n, h4 with
  | n + 4, _ => rfl

/-! ### Encoded forms -/

theorem parse_sfBytes {data tail : Bytes} (h1 : 1 ≤ data.length) (h2 : data.length ≤ 15) :
    parse (sfBytes data ++ tail) 0 = .ok (.single data) := by
  simp [sfBytes, parse_type0 h1 h2, parseSf]

theorem parse_sfEscBytes {data tail : Bytes} (h1 : 1 ≤ data.length) (h2 : data.length ≤ 255) :
    parse (sfEscBytes data ++ tail) 0 = .ok (.single data) := by
  simp only [sfEscBytes, List.cons_append, parse_escape, parseSfEsc, byteOf_toNat_of_lt (show data.length < 256 by omega)]
  rw [if_neg (by omega), if_neg (by simp)]
  simp

theorem parse_ffBytes {L : Nat} {data : Bytes} (h1 : 1 ≤ L) (h2 : L ≤ 4095) :
    parse (ffBytes L data) 0 = .ok (.first L data) := by
  simp only [ffBytes, parse_type1 (show L / 256 ≤ 15 by omega), parseFf, ffDlShort_byteOf]
  rw [if_neg (by omega)]

theorem parse_ffEscBytes {L : Nat} {data : Bytes} (h1 : 1 ≤ L) (h2 : L ≤ Config.msgLenMax) :
    parse (ffEscBytes L data) 0 = .ok (.first L data) := by
  have e : parse (ffEscBytes L data) 0 = parseFf 0 ((ffEscBytes L data).drop 1) := parse_type1 (hi := 0) (by omega) _
  rw [e]
  simp only [ffEscBytes, List.drop_succ_cons, List.drop_zero, parseFf]
  rw [if_pos (by decide), parseFfEsc, ffDlEsc_byteOf h2]
  rw [if_neg (by omega)]

theorem parse_cfBytes {sn : BitVec 4} {data : Bytes} : parse (cfBytes sn data) 0 = .ok (.consecutive sn data) :=
  parse_type2 sn data

theorem parse_fcBytes {fc : FlowControl} {tail : Bytes} (h : stminLegal fc.stminUs = true) :
    parse (fcBytes fc ++ tail) 0 = .ok (.flowControl fc) := by
  have := flowStatusCode_lt fc.flowStatus
  simp only [fcBytes, List.cons_append, List.nil_append, parse_type3 (show flowStatusCode fc.flowStatus ≤ 15 by omega),
    parseFc, flowStatusOf_code, stminOf_stminCode h]

/-! ### The PCI length of an encoded form -/

theorem pciLength_sfBytes {data : Bytes} (h1 : 1 ≤ data.length) (h2 : data.length ≤ 15) :
    pciLength (sfBytes data) 0 = 1 := by
  simp only [pciLength, sfBytes, List.drop_zero, highNibble_byteOf (show data.length < 256 by omega),
    lowNibble_byteOf (show data.length < 256 by omega), show data.length / 16 = 0 by omega,
    show data.length % 16 = data.length by omega]
  rw [if_neg (by omega)]

theorem pciLength_sfEscBytes {data : Bytes} : pciLength (sfEscBytes data) 0 = 2 := rfl

theorem pciLength_ffBytes {L : Nat} {data : Bytes} (h1 : 1 ≤ L) (h2 : L ≤ 4095) : pciLength (ffBytes L data) 0 = 2 := by
  simp only [pciLength, ffBytes, List.drop_zero, highNibble_byteOf (show 0x10 + L / 256 < 256 by omega),
    lowNibble_byteOf (show 0x10 + L / 256 < 256 by omega), show (0x10 + L / 256) / 16 = 1 by omega,
    show (0x10 + L / 256) % 16 = L / 256 by omega, ffDlShort_byteOf]
  rw [if_neg (by omega)]

theorem pciLength_ffEscBytes {L : Nat} {data : Bytes} : pciLength (ffEscBytes L data) 0 = 6 := rfl

/-! ### What a parsed frame satisfies -/

/-- The frames `parse` answers: their fields are in the ranges of R105. -/
theorem parse_ok_fields {d : Bytes} {p : Nat} {f : Frame} (h : parse d p = .ok f) :
    (∀ data, f = .single data → 1 ≤ data.length ∧ data.length ≤ 255) ∧
    (∀ L data, f = .first L data → 1 ≤ L ∧ L ≤ Config.msgLenMax) ∧
    (∀ fc, f = .flowControl fc → stminLegal fc.stminUs = true) := by
  simp only [parse] at h
  split at h
  · simp at h
  · rename_i b0 rest _
    split at h
    · split at h
      · match rest, h with
        | n :: data, h =>
          simp only [parseSfEsc] at h
          split at h
          · simp at h
          · split at h
            · simp at h
            · have := n.isLt
              simp only [Except.ok.injEq] at h
              subst h
              refine ⟨?_, by simp, by simp⟩
              rintro _ ⟨⟩
              rw [List.length_take]; omega
      · simp only [parseSf] at h
        have := lowNibble_lt b0
        split at h
        · simp at h
        · simp only [Except.ok.injEq] at h
          subst h
          refine ⟨?_, by simp, by simp⟩
          rintro _ ⟨⟩
          rw [List.length_take]; omega
    · match rest, h with
      | b1 :: data, h =>
        simp only [parseFf] at h
        split at h
        · match data, h with
          | b2 :: b3 :: b4 :: b5 :: data, h =>
            simp only [parseFfEsc] at h
            split at h
            · simp at h
            · simp only [Except.ok.injEq] at h
              subst h
              refine ⟨by simp, ?_, by simp⟩
              rintro _ _ ⟨⟩
              exact ⟨by omega, ffDlEsc_le ..⟩
        · simp only [Except.ok.injEq] at h
          subst h
          refine ⟨by simp, ?_, by simp⟩
          rintro _ _ ⟨⟩
          have := ffDlShort_lt (lowNibble_lt b0) b1
          exact ⟨by omega, by simp only [Config.msgLenMax]; omega⟩
    · simp only [Except.ok.injEq] at h
      subst h
      simp
    · match rest, h with
      | bs :: c :: _, h =>
        simp only [parseFc] at h
        split at h
        · simp at h
        · split at h
          · simp at h
          · rename_i u hu
            simp only [Except.ok.injEq] at h
            subst h
            refine ⟨by simp, by simp, ?_⟩
            rintro _ ⟨⟩
            exact stminOf_legal hu
    · simp at h

/-! ### encodeRaw -/

theorem paddedLength_le {n m : Nat} (h : paddedLength n = some m) : n ≤ m ∧ (m ≤ 8 ∨ m ∈ Config.fdLenSet) := by
  rw [paddedLength] at h
  split at h
  · simp only [Option.some.injEq] at h
    exact ⟨by omega, .inl (h ▸ ‹_›)⟩
  · exact ⟨by simpa using List.find?_some h, .inr (List.mem_of_find?_eq_some h)⟩

theorem paddedLength_of_le {n : Nat} (h : n ≤ 64) : ∃ m, paddedLength n = some m := by
  simp only [paddedLength]
  split
  · exact ⟨n, rfl⟩
  · have : (Config.fdLenSet.find? (fun m => decide (n ≤ m))).isSome = true := by
      simp [Config.fdLenSet]; omega
    exact Option.isSome_iff_exists.1 this

/-- Everything `encodeRaw` can answer with a frame. -/
theorem encodeRaw_cases {C : ConfigRegs} {f : Frame} {r : RawFrame} (h : encodeRaw C f = .ok r) :
    ∃ bytes m, serialize f = some bytes ∧ (txPayloadPrefix C.addr ++ bytes).length ≤ C.maxDataLength ∧
      paddedLength (txPayloadPrefix C.addr ++ bytes).length = some m ∧
      r = { id := C.addr.txId
            data := txPayloadPrefix C.addr ++ bytes ++ List.replicate (m - (txPayloadPrefix C.addr ++ bytes).length) C.padByte
            fd := fdMode C } := by
  simp only [encodeRaw] at h
  split at h
  · simp at h
  · rename_i bytes hb
    split at h
    · simp at h
    · split at h
      · simp at h
      · rename_i m hm
        exact ⟨bytes, m, hb, by omega, hm, by simpa using h.symm⟩

/-- `encodeRaw` answers a frame whenever the body fits into a capacity of 8 or 64. -/
theorem encodeRaw_answers {C : ConfigRegs} {f : Frame} {bytes : Bytes} (hs : serialize f = some bytes)
    (hC : C.maxDataLength ≤ 64) (hl : (txPayloadPrefix C.addr ++ bytes).length ≤ C.maxDataLength) :
    ∃ r, encodeRaw C f = .ok r := by
  obtain ⟨m, hm⟩ := paddedLength_of_le (show (txPayloadPrefix C.addr ++ bytes).length ≤ 64 by omega)
  have hn : ¬ C.maxDataLength < (txPayloadPrefix C.addr ++ bytes).length := by omega
  simp only [encodeRaw, hs, hm, if_neg hn]
  exact ⟨_, rfl⟩

end Sys2Proof
end

