-- ==== Sys2Proof/Laws/State.lean ====
section
/-! SUPPORT. What each field reads after each update of the state: one lemma per field per update. -/

namespace Sys2Proof.Machine

variable (s : State)

@[simp] theorem armTimer_running (n d : Nat) : (armTimer n d).running = true := rfl
@[simp] theorem armTimer_start (n d : Nat) : (armTimer n d).start = n := rfl
@[simp] theorem armTimer_timeout (n d : Nat) : (armTimer n d).timeout = d := rfl
@[simp] theorem stopTimer_running : stopTimer.running = false := rfl

/-! ### rxReset -/

@[simp] theorem rxReset_rxState : (rxReset s).rxState = .idle := rfl
@[simp] theorem rxReset_txState : (rxReset s).txState = s.txState := rfl
@[simp] theorem rxReset_rxBuffer : (rxReset s).rxBuffer = [] := rfl
@[simp] theorem rxReset_txBuffer : (rxReset s).txBuffer = s.txBuffer := rfl
@[simp] theorem rxReset_rxFrameLen : (rxReset s).rxFrameLen = 0 := rfl
@[simp] theorem rxReset_txFrameLen : (rxReset s).txFrameLen = s.txFrameLen := rfl
@[simp] theorem rxReset_rxSeqNum : (rxReset s).rxSeqNum = 0 := rfl
@[simp] theorem rxReset_txSeqNum : (rxReset s).txSeqNum = s.txSeqNum := rfl
@[simp] theorem rxReset_rxBlockCounter : (rxReset s).rxBlockCounter = 0 := rfl
@[simp] theorem rxReset_txBlockCounter : (rxReset s).txBlockCounter = s.txBlockCounter := rfl
@[simp] theorem rxReset_remoteBlocksize : (rxReset s).remoteBlocksize = s.remoteBlocksize := rfl
@[simp] theorem rxReset_remoteStminUs : (rxReset s).remoteStminUs = s.remoteStminUs := rfl
@[simp] theorem rxReset_wftCounter : (rxReset s).wftCounter = s.wftCounter := rfl
@[simp] theorem rxReset_pendingFlowControlTx : (rxReset s).pendingFlowControlTx = false := rfl
@[simp] theorem rxReset_lastFlowControlFrame : (rxReset s).lastFlowControlFrame = s.lastFlowControlFrame := rfl
@[simp] theorem rxReset_timerRxCF : (rxReset s).timerRxCF = ⟨false, 0, 0⟩ := rfl
@[simp] theorem rxReset_timerRxFC : (rxReset s).timerRxFC = s.timerRxFC := rfl
@[simp] theorem rxReset_timerTxStmin : (rxReset s).timerTxStmin = s.timerTxStmin := rfl
@[simp] theorem rxReset_inbound : (rxReset s).inbound = s.inbound := rfl
@[simp] theorem rxReset_outbound : (rxReset s).outbound = s.outbound := rfl
@[simp] theorem rxReset_C : (rxReset s).C = s.C := rfl
@[simp] theorem rxReset_live : (rxReset s).live = s.live := rfl
@[simp] theorem rxReset_clock : (rxReset s).clock = s.clock := rfl
@[simp] theorem rxReset_program : (rxReset s).program = s.program := rfl
@[simp] theorem rxReset_txFrame : (rxReset s).txFrame = s.txFrame := rfl
@[simp] theorem rxReset_events : (rxReset s).events = s.events := rfl
@[simp] theorem rxReset_reply : (rxReset s).reply = s.reply := rfl

/-! ### txReset -/

@[simp] theorem txReset_rxState : (txReset s).rxState = s.rxState := rfl
@[simp] theorem txReset_txState : (txReset s).txState = .idle := rfl
@[simp] theorem txReset_rxBuffer : (txReset s).rxBuffer = s.rxBuffer := rfl
@[simp] theorem txReset_txBuffer : (txReset s).txBuffer = [] := rfl
@[simp] theorem txReset_rxFrameLen : (txReset s).rxFrameLen = s.rxFrameLen := rfl
@[simp] theorem txReset_txFrameLen : (txReset s).txFrameLen = 0 := rfl
@[simp] theorem txReset_rxSeqNum : (txReset s).rxSeqNum = s.rxSeqNum := rfl
@[simp] theorem txReset_txSeqNum : (txReset s).txSeqNum = 0 := rfl
@[simp] theorem txReset_rxBlockCounter : (txReset s).rxBlockCounter = s.rxBlockCounter := rfl
@[simp] theorem txReset_txBlockCounter : (txReset s).txBlockCounter = 0 := rfl
@[simp] theorem txReset_remoteBlocksize : (txReset s).remoteBlocksize = 0 := rfl
@[simp] theorem txReset_remoteStminUs : (txReset s).remoteStminUs = 0 := rfl
@[simp] theorem txReset_wftCounter : (txReset s).wftCounter = 0 := rfl
@[simp] theorem txReset_pendingFlowControlTx : (txReset s).pendingFlowControlTx = s.pendingFlowControlTx := rfl
@[simp] theorem txReset_lastFlowControlFrame : (txReset s).lastFlowControlFrame = s.lastFlowControlFrame := rfl
@[simp] theorem txReset_timerRxCF : (txReset s).timerRxCF = s.timerRxCF := rfl
@[simp] theorem txReset_timerRxFC : (txReset s).timerRxFC = ⟨false, 0, 0⟩ := rfl
@[simp] theorem txReset_timerTxStmin : (txReset s).timerTxStmin = ⟨false, 0, 0⟩ := rfl
@[simp] theorem txReset_inbound : (txReset s).inbound = s.inbound := rfl
@[simp] theorem txReset_outbound : (txReset s).outbound = s.outbound := rfl
@[simp] theorem txReset_C : (txReset s).C = s.C := rfl
@[simp] theorem txReset_live : (txReset s).live = s.live := rfl
@[simp] theorem txReset_clock : (txReset s).clock = s.clock := rfl
@[simp] theorem txReset_program : (txReset s).program = s.program := rfl
@[simp] theorem txReset_txFrame : (txReset s).txFrame = s.txFrame := rfl
@[simp] theorem txReset_events : (txReset s).events = s.events := rfl
@[simp] theorem txReset_reply : (txReset s).reply = s.reply := rfl

/-! ### raise -/

@[simp] theorem raise_rxState (e : Event) : (raise e s).rxState = s.rxState := rfl
@[simp] theorem raise_txState (e : Event) : (raise e s).txState = s.txState := rfl
@[simp] theorem raise_rxBuffer (e : Event) : (raise e s).rxBuffer = s.rxBuffer := rfl
@[simp] theorem raise_txBuffer (e : Event) : (raise e s).txBuffer = s.txBuffer := rfl
@[simp] theorem raise_rxFrameLen (e : Event) : (raise e s).rxFrameLen = s.rxFrameLen := rfl
@[simp] theorem raise_txFrameLen (e : Event) : (raise e s).txFrameLen = s.txFrameLen := rfl
@[simp] theorem raise_rxSeqNum (e : Event) : (raise e s).rxSeqNum = s.rxSeqNum := rfl
@[simp] theorem raise_txSeqNum (e : Event) : (raise e s).txSeqNum = s.txSeqNum := rfl
@[simp] theorem raise_rxBlockCounter (e : Event) : (raise e s).rxBlockCounter = s.rxBlockCounter := rfl
@[simp] theorem raise_txBlockCounter (e : Event) : (raise e s).txBlockCounter = s.txBlockCounter := rfl
@[simp] theorem raise_remoteBlocksize (e : Event) : (raise e s).remoteBlocksize = s.remoteBlocksize := rfl
@[simp] theorem raise_remoteStminUs (e : Event) : (raise e s).remoteStminUs = s.remoteStminUs := rfl
@[simp] theorem raise_wftCounter (e : Event) : (raise e s).wftCounter = s.wftCounter := rfl
@[simp] theorem raise_pendingFlowControlTx (e : Event) : (raise e s).pendingFlowControlTx = s.pendingFlowControlTx := rfl
@[simp] theorem raise_lastFlowControlFrame (e : Event) : (raise e s).lastFlowControlFrame = s.lastFlowControlFrame := rfl
@[simp] theorem raise_timerRxCF (e : Event) : (raise e s).timerRxCF = s.timerRxCF := rfl
@[simp] theorem raise_timerRxFC (e : Event) : (raise e s).timerRxFC = s.timerRxFC := rfl
@[simp] theorem raise_timerTxStmin (e : Event) : (raise e s).timerTxStmin = s.timerTxStmin := rfl
@[simp] theorem raise_inbound (e : Event) : (raise e s).inbound = s.inbound := rfl
@[simp] theorem raise_outbound (e : Event) : (raise e s).outbound = s.outbound := rfl
@[simp] theorem raise_C (e : Event) : (raise e s).C = s.C := rfl
@[simp] theorem raise_live (e : Event) : (raise e s).live = s.live := rfl
@[simp] theorem raise_clock (e : Event) : (raise e s).clock = s.clock := rfl
@[simp] theorem raise_program (e : Event) : (raise e s).program = s.program := rfl
@[simp] theorem raise_txFrame (e : Event) : (raise e s).txFrame = s.txFrame := rfl
@[simp] theorem raise_events (e : Event) : (raise e s).events = s.events ++ [e] := rfl
@[simp] theorem raise_reply (e : Event) : (raise e s).reply = s.reply := rfl

/-! ### beginOp -/

@[simp] theorem beginOp_rxState : (beginOp s).rxState = s.rxState := rfl
@[simp] theorem beginOp_txState : (beginOp s).txState = s.txState := rfl
@[simp] theorem beginOp_rxBuffer : (beginOp s).rxBuffer = s.rxBuffer := rfl
@[simp] theorem beginOp_txBuffer : (beginOp s).txBuffer = s.txBuffer := rfl
@[simp] theorem beginOp_rxFrameLen : (beginOp s).rxFrameLen = s.rxFrameLen := rfl
@[simp] theorem beginOp_txFrameLen : (beginOp s).txFrameLen = s.txFrameLen := rfl
@[simp] theorem beginOp_rxSeqNum : (beginOp s).rxSeqNum = s.rxSeqNum := rfl
@[simp] theorem beginOp_txSeqNum : (beginOp s).txSeqNum = s.txSeqNum := rfl
@[simp] theorem beginOp_rxBlockCounter : (beginOp s).rxBlockCounter = s.rxBlockCounter := rfl
@[simp] theorem beginOp_txBlockCounter : (beginOp s).txBlockCounter = s.txBlockCounter := rfl
@[simp] theorem beginOp_remoteBlocksize : (beginOp s).remoteBlocksize = s.remoteBlocksize := rfl
@[simp] theorem beginOp_remoteStminUs : (beginOp s).remoteStminUs = s.remoteStminUs := rfl
@[simp] theorem beginOp_wftCounter : (beginOp s).wftCounter = s.wftCounter := rfl
@[simp] theorem beginOp_pendingFlowControlTx : (beginOp s).pendingFlowControlTx = s.pendingFlowControlTx := rfl
@[simp] theorem beginOp_lastFlowControlFrame : (beginOp s).lastFlowControlFrame = s.lastFlowControlFrame := rfl
@[simp] theorem beginOp_timerRxCF : (beginOp s).timerRxCF = s.timerRxCF := rfl
@[simp] theorem beginOp_timerRxFC : (beginOp s).timerRxFC = s.timerRxFC := rfl
@[simp] theorem beginOp_timerTxStmin : (beginOp s).timerTxStmin = s.timerTxStmin := rfl
@[simp] theorem beginOp_inbound : (beginOp s).inbound = s.inbound := rfl
@[simp] theorem beginOp_outbound : (beginOp s).outbound = s.outbound := rfl
@[simp] theorem beginOp_C : (beginOp s).C = s.C := rfl
@[simp] theorem beginOp_live : (beginOp s).live = s.live := rfl
@[simp] theorem beginOp_clock : (beginOp s).clock = s.clock := rfl
@[simp] theorem beginOp_program : (beginOp s).program = s.program := rfl
@[simp] theorem beginOp_txFrame : (beginOp s).txFrame = none := rfl
@[simp] theorem beginOp_events : (beginOp s).events = [] := rfl
@[simp] theorem beginOp_reply : (beginOp s).reply = .nothing := rfl

/-! ### requestFlowControl -/

@[simp] theorem requestFlowControl_rxState : (requestFlowControl s).rxState = s.rxState := rfl
@[simp] theorem requestFlowControl_txState : (requestFlowControl s).txState = s.txState := rfl
@[simp] theorem requestFlowControl_rxBuffer : (requestFlowControl s).rxBuffer = s.rxBuffer := rfl
@[simp] theorem requestFlowControl_txBuffer : (requestFlowControl s).txBuffer = s.txBuffer := rfl
@[simp] theorem requestFlowControl_rxFrameLen : (requestFlowControl s).rxFrameLen = s.rxFrameLen := rfl
@[simp] theorem requestFlowControl_txFrameLen : (requestFlowControl s).txFrameLen = s.txFrameLen := rfl
@[simp] theorem requestFlowControl_rxSeqNum : (requestFlowControl s).rxSeqNum = s.rxSeqNum := rfl
@[simp] theorem requestFlowControl_txSeqNum : (requestFlowControl s).txSeqNum = s.txSeqNum := rfl
@[simp] theorem requestFlowControl_rxBlockCounter : (requestFlowControl s).rxBlockCounter = s.rxBlockCounter := rfl
@[simp] theorem requestFlowControl_txBlockCounter : (requestFlowControl s).txBlockCounter = s.txBlockCounter := rfl
@[simp] theorem requestFlowControl_remoteBlocksize : (requestFlowControl s).remoteBlocksize = s.remoteBlocksize := rfl
@[simp] theorem requestFlowControl_remoteStminUs : (requestFlowControl s).remoteStminUs = s.remoteStminUs := rfl
@[simp] theorem requestFlowControl_wftCounter : (requestFlowControl s).wftCounter = s.wftCounter := rfl
@[simp] theorem requestFlowControl_pendingFlowControlTx : (requestFlowControl s).pendingFlowControlTx = true := rfl
@[simp] theorem requestFlowControl_lastFlowControlFrame : (requestFlowControl s).lastFlowControlFrame = s.lastFlowControlFrame := rfl
@[simp] theorem requestFlowControl_timerRxCF : (requestFlowControl s).timerRxCF = s.timerRxCF := rfl
@[simp] theorem requestFlowControl_timerRxFC : (requestFlowControl s).timerRxFC = s.timerRxFC := rfl
@[simp] theorem requestFlowControl_timerTxStmin : (requestFlowControl s).timerTxStmin = s.timerTxStmin := rfl
@[simp] theorem requestFlowControl_inbound : (requestFlowControl s).inbound = s.inbound := rfl
@[simp] theorem requestFlowControl_outbound : (requestFlowControl s).outbound = s.outbound := rfl
@[simp] theorem requestFlowControl_C : (requestFlowControl s).C = s.C := rfl
@[simp] theorem requestFlowControl_live : (requestFlowControl s).live = s.live := rfl
@[simp] theorem requestFlowControl_clock : (requestFlowControl s).clock = s.clock := rfl
@[simp] theorem requestFlowControl_program : (requestFlowControl s).program = s.program := rfl
@[simp] theorem requestFlowControl_txFrame : (requestFlowControl s).txFrame = s.txFrame := rfl
@[simp] theorem requestFlowControl_events : (requestFlowControl s).events = s.events := rfl
@[simp] theorem requestFlowControl_reply : (requestFlowControl s).reply = s.reply := rfl

/-! ### postMailbox -/

@[simp] theorem postMailbox_rxState (fc : FlowControl) : (postMailbox fc s).rxState = s.rxState := rfl
@[simp] theorem postMailbox_txState (fc : FlowControl) : (postMailbox fc s).txState = s.txState := rfl
@[simp] theorem postMailbox_rxBuffer (fc : FlowControl) : (postMailbox fc s).rxBuffer = s.rxBuffer := rfl
@[simp] theorem postMailbox_txBuffer (fc : FlowControl) : (postMailbox fc s).txBuffer = s.txBuffer := rfl
@[simp] theorem postMailbox_rxFrameLen (fc : FlowControl) : (postMailbox fc s).rxFrameLen = s.rxFrameLen := rfl
@[simp] theorem postMailbox_txFrameLen (fc : FlowControl) : (postMailbox fc s).txFrameLen = s.txFrameLen := rfl
@[simp] theorem postMailbox_rxSeqNum (fc : FlowControl) : (postMailbox fc s).rxSeqNum = s.rxSeqNum := rfl
@[simp] theorem postMailbox_txSeqNum (fc : FlowControl) : (postMailbox fc s).txSeqNum = s.txSeqNum := rfl
@[simp] theorem postMailbox_rxBlockCounter (fc : FlowControl) : (postMailbox fc s).rxBlockCounter = s.rxBlockCounter := rfl
@[simp] theorem postMailbox_txBlockCounter (fc : FlowControl) : (postMailbox fc s).txBlockCounter = s.txBlockCounter := rfl
@[simp] theorem postMailbox_remoteBlocksize (fc : FlowControl) : (postMailbox fc s).remoteBlocksize = s.remoteBlocksize := rfl
@[simp] theorem postMailbox_remoteStminUs (fc : FlowControl) : (postMailbox fc s).remoteStminUs = s.remoteStminUs := rfl
@[simp] theorem postMailbox_wftCounter (fc : FlowControl) : (postMailbox fc s).wftCounter = s.wftCounter := rfl
@[simp] theorem postMailbox_pendingFlowControlTx (fc : FlowControl) : (postMailbox fc s).pendingFlowControlTx = s.pendingFlowControlTx := rfl
@[simp] theorem postMailbox_lastFlowControlFrame (fc : FlowControl) : (postMailbox fc s).lastFlowControlFrame = some fc := rfl
@[simp] theorem postMailbox_timerRxCF (fc : FlowControl) : (postMailbox fc s).timerRxCF = s.timerRxCF := rfl
@[simp] theorem postMailbox_timerRxFC (fc : FlowControl) : (postMailbox fc s).timerRxFC = s.timerRxFC := rfl
@[simp] theorem postMailbox_timerTxStmin (fc : FlowControl) : (postMailbox fc s).timerTxStmin = s.timerTxStmin := rfl
@[simp] theorem postMailbox_inbound (fc : FlowControl) : (postMailbox fc s).inbound = s.inbound := rfl
@[simp] theorem postMailbox_outbound (fc : FlowControl) : (postMailbox fc s).outbound = s.outbound := rfl
@[simp] theorem postMailbox_C (fc : FlowControl) : (postMailbox fc s).C = s.C := rfl
@[simp] theorem postMailbox_live (fc : FlowControl) : (postMailbox fc s).live = s.live := rfl
@[simp] theorem postMailbox_clock (fc : FlowControl) : (postMailbox fc s).clock = s.clock := rfl
@[simp] theorem postMailbox_program (fc : FlowControl) : (postMailbox fc s).program = s.program := rfl
@[simp] theorem postMailbox_txFrame (fc : FlowControl) : (postMailbox fc s).txFrame = s.txFrame := rfl
@[simp] theorem postMailbox_events (fc : FlowControl) : (postMailbox fc s).events = s.events := rfl
@[simp] theorem postMailbox_reply (fc : FlowControl) : (postMailbox fc s).reply = s.reply := rfl

/-! ### clearMailbox -/

@[simp] theorem clearMailbox_rxState : (clearMailbox s).rxState = s.rxState := rfl
@[simp] theorem clearMailbox_txState : (clearMailbox s).txState = s.txState := rfl
@[simp] theorem clearMailbox_rxBuffer : (clearMailbox s).rxBuffer = s.rxBuffer := rfl
@[simp] theorem clearMailbox_txBuffer : (clearMailbox s).txBuffer = s.txBuffer := rfl
@[simp] theorem clearMailbox_rxFrameLen : (clearMailbox s).rxFrameLen = s.rxFrameLen := rfl
@[simp] theorem clearMailbox_txFrameLen : (clearMailbox s).txFrameLen = s.txFrameLen := rfl
@[simp] theorem clearMailbox_rxSeqNum : (clearMailbox s).rxSeqNum = s.rxSeqNum := rfl
@[simp] theorem clearMailbox_txSeqNum : (clearMailbox s).txSeqNum = s.txSeqNum := rfl
@[simp] theorem clearMailbox_rxBlockCounter : (clearMailbox s).rxBlockCounter = s.rxBlockCounter := rfl
@[simp] theorem clearMailbox_txBlockCounter : (clearMailbox s).txBlockCounter = s.txBlockCounter := rfl
@[simp] theorem clearMailbox_remoteBlocksize : (clearMailbox s).remoteBlocksize = s.remoteBlocksize := rfl
@[simp] theorem clearMailbox_remoteStminUs : (clearMailbox s).remoteStminUs = s.remoteStminUs := rfl
@[simp] theorem clearMailbox_wftCounter : (clearMailbox s).wftCounter = s.wftCounter := rfl
@[simp] theorem clearMailbox_pendingFlowControlTx : (clearMailbox s).pendingFlowControlTx = s.pendingFlowControlTx := rfl
@[simp] theorem clearMailbox_lastFlowControlFrame : (clearMailbox s).lastFlowControlFrame = none := rfl
@[simp] theorem clearMailbox_timerRxCF : (clearMailbox s).timerRxCF = s.timerRxCF := rfl
@[simp] theorem clearMailbox_timerRxFC : (clearMailbox s).timerRxFC = s.timerRxFC := rfl
@[simp] theorem clearMailbox_timerTxStmin : (clearMailbox s).timerTxStmin = s.timerTxStmin := rfl
@[simp] theorem clearMailbox_inbound : (clearMailbox s).inbound = s.inbound := rfl
@[simp] theorem clearMailbox_outbound : (clearMailbox s).outbound = s.outbound := rfl
@[simp] theorem clearMailbox_C : (clearMailbox s).C = s.C := rfl
@[simp] theorem clearMailbox_live : (clearMailbox s).live = s.live := rfl
@[simp] theorem clearMailbox_clock : (clearMailbox s).clock = s.clock := rfl
@[simp] theorem clearMailbox_program : (clearMailbox s).program = s.program := rfl
@[simp] theorem clearMailbox_txFrame : (clearMailbox s).txFrame = s.txFrame := rfl
@[simp] theorem clearMailbox_events : (clearMailbox s).events = s.events := rfl
@[simp] theorem clearMailbox_reply : (clearMailbox s).reply = s.reply := rfl

/-! ### Exceptions with a reset -/

theorem abortRx_eq (e : Event) : abortRx e s = rxReset (raise e s) := rfl
theorem abortTx_eq (e : Event) : abortTx e s = txReset (raise e s) := rfl

end Sys2Proof.Machine
end

