-- ==== Sys2Proof/Laws/Receive.lean ====
section
/-! SUPPORT. Everything the operations of the receive phase can do, one lemma for each. -/

namespace Sys2Proof.Machine

theorem expired_iff (T : Timer) (n : Nat) : expired T n = true ↔ T.running = true ∧ T.start + T.timeout ≤ n := by
  simp [expired]

theorem expired_armTimer (a d n : Nat) : expired (armTimer a d) n = true ↔ a + d ≤ n := by
  simp [expired_iff]

@[simp] theorem expired_stopTimer (n : Nat) : expired stopTimer n = false := rfl

@[simp] theorem expired_stopped (n : Nat) : expired ⟨false, 0, 0⟩ n = false := rfl

theorem receptionComplete_iff (s : State) : receptionComplete s = true ↔ s.rxFrameLen ≤ s.rxBuffer.length := by
  simp [receptionComplete]

theorem rxBlockFull_iff (s : State) :
    rxBlockFull s = true ↔ s.C.blocksize.toNat ≠ 0 ∧ s.C.blocksize.toNat ≤ s.rxBlockCounter := by
  have h : s.C.blocksize = 0 ↔ s.C.blocksize.toNat = 0 := by rw [← BitVec.toNat_inj]; rfl
  simp only [rxBlockFull, Bool.and_eq_true, bne_iff_ne, ne_eq, h, decide_eq_true_eq]

/-- The timeout check does nothing, or raises TimeoutCF and resets the receive side. -/
theorem checkCfTimeout_cases (s : State) :
    (checkCfTimeout s = s ∧ ¬ (s.rxState = .waitCF ∧ expired s.timerRxCF s.clock = true)) ∨
    (checkCfTimeout s = rxReset (raise .timeoutCF s) ∧ s.rxState = .waitCF ∧ expired s.timerRxCF s.clock = true) := by
  by_cases h : s.rxState = .waitCF ∧ expired s.timerRxCF s.clock = true
  · exact .inr ⟨by simp [checkCfTimeout, h, abortRx], h⟩
  · exact .inl ⟨by rw [checkCfTimeout, if_neg h], h⟩

/-- A new message interrupts a reception: the reset, with the event if there was one in progress. -/
theorem interruptReception_cases (e : Event) (s : State) :
    (interruptReception e s = rxReset s ∧ s.rxState = .idle) ∨
    (interruptReception e s = rxReset (raise e s) ∧ s.rxState = .waitCF) := by
  cases h : s.rxState
  · exact .inl ⟨by simp [interruptReception, h], rfl⟩
  · exact .inr ⟨by simp [interruptReception, h, abortRx], rfl⟩

/-- The receive phase: the timeout check alone, that after a parse event, or the dispatch of a parsed frame. -/
theorem processReceive_cases (rx : Option RawFrame) (s : State) :
    (processReceive rx s = checkCfTimeout s ∧ ∀ f, rx = some f → isForMe s.C.addr f = false) ∨
    (∃ f e, rx = some f ∧ isForMe s.C.addr f = true ∧ parse f.data (rxPrefixSize s.C.addr) = .error e ∧
      processReceive rx s = checkCfTimeout (raise (.frameParseError e) s)) ∨
    (∃ f g, rx = some f ∧ isForMe s.C.addr f = true ∧ parse f.data (rxPrefixSize s.C.addr) = .ok g ∧
      processReceive rx s = receiveFrame g (checkCfTimeout s)) := by
  cases rx with
  | none => exact .inl ⟨rfl, by simp⟩
  | some f =>
    cases hf : isForMe s.C.addr f with
    | false =>
      have e : (some f).filter (isForMe s.C.addr) = none := Option.filter_some_neg (by simp [hf])
      exact .inl ⟨by simp only [processReceive, e], by rintro _ ⟨⟩; exact hf⟩
    | true =>
      have e : (some f).filter (isForMe s.C.addr) = some f := Option.filter_some_pos hf
      cases hp : parse f.data (rxPrefixSize s.C.addr) with
      | error x => exact .inr (.inl ⟨f, x, rfl, hf, hp, by simp only [processReceive, e, hp]⟩)
      | ok g => exact .inr (.inr ⟨f, g, rfl, hf, hp, by simp only [processReceive, e, hp]⟩)

/-- A FirstFrame: complete at once, or a reassembly begun. -/
theorem receiveFirst_cases (L : Nat) (data : Bytes) (s : State) :
    ∃ s1, s1 = interruptReception .receptionInterruptedByFirstFrame s ∧
    ((L ≤ data.length ∧ receiveFirst L data s = rxReset { s1 with inbound := s1.inbound ++ [data.take L] }) ∨
     (data.length < L ∧ receiveFirst L data s =
        { s1 with rxFrameLen := L, rxBuffer := data, rxState := .waitCF, rxSeqNum := 1, pendingFlowControlTx := true })) := by
  refine ⟨_, rfl, ?_⟩
  simp only [receiveFirst, receptionComplete, List.length_take]
  by_cases h : L ≤ data.length
  · exact .inl ⟨h, by simp [h, deliver, push, rxReset]⟩
  · exact .inr ⟨by omega, by simp [h, requestFlowControl, List.take_of_length_le (show data.length ≤ L by omega)]⟩

/-- A ConsecutiveFrame in sequence: the message complete, the block used up, or in mid-block. -/
theorem acceptConsecutive_cases (data : Bytes) (s : State) :
    (s.rxFrameLen ≤ s.rxBuffer.length + data.length ∧ acceptConsecutive data s =
      rxReset { s with inbound := s.inbound ++ [s.rxBuffer ++ data.take (s.rxFrameLen - s.rxBuffer.length)] }) ∨
    (s.rxBuffer.length + data.length < s.rxFrameLen ∧
      (s.C.blocksize.toNat ≠ 0 ∧ s.C.blocksize.toNat ≤ s.rxBlockCounter + 1) ∧ acceptConsecutive data s =
      { s with
        rxSeqNum := s.rxSeqNum + 1, rxBuffer := s.rxBuffer ++ data, rxBlockCounter := 0
        pendingFlowControlTx := true, timerRxCF := ⟨false, 0, 0⟩ }) ∨
    (s.rxBuffer.length + data.length < s.rxFrameLen ∧
      ¬ (s.C.blocksize.toNat ≠ 0 ∧ s.C.blocksize.toNat ≤ s.rxBlockCounter + 1) ∧ acceptConsecutive data s =
      { s with
        rxSeqNum := s.rxSeqNum + 1, rxBuffer := s.rxBuffer ++ data, rxBlockCounter := s.rxBlockCounter + 1
        timerRxCF := ⟨true, s.clock, 1000 * s.C.cfTimeoutMs⟩ }) := by
  by_cases h : s.rxFrameLen ≤ s.rxBuffer.length + data.length
  · refine .inl ⟨h, ?_⟩
    have hc : s.rxFrameLen ≤ s.rxBuffer.length + min (s.rxFrameLen - s.rxBuffer.length) data.length := by omega
    simp [acceptConsecutive, receptionComplete, deliver, push, rxReset, hc]
  · have ht : data.take (s.rxFrameLen - s.rxBuffer.length) = data := List.take_of_length_le (by omega)
    have hn : ¬ s.rxFrameLen ≤ s.rxBuffer.length + data.length := h
    have e : acceptConsecutive data s = countReceived
        { s with
          timerRxCF := armTimer s.clock (Config.ms s.C.cfTimeoutMs), rxSeqNum := s.rxSeqNum + 1
          rxBuffer := s.rxBuffer ++ data } := by
      simp [acceptConsecutive, receptionComplete, ht, hn]
    refine .inr ?_
    rw [e, countReceived]
    by_cases hf : rxBlockFull { s with rxBlockCounter := s.rxBlockCounter + 1 } = true
    · exact .inl ⟨by omega, by simpa [rxBlockFull_iff] using hf, if_pos hf⟩
    · exact .inr ⟨by omega, by simpa [rxBlockFull_iff] using hf, if_neg hf⟩

/-- What a frame never writes: the transmit side, the configuration and the model's own fields but the events. -/
theorem receiveFrame_frame (f : Frame) (s : State) :
    ∃ rx buf len sn bc pf mb T inb ev, receiveFrame f s =
      { s with
        rxState := rx, rxBuffer := buf, rxFrameLen := len, rxSeqNum := sn, rxBlockCounter := bc
        pendingFlowControlTx := pf, lastFlowControlFrame := mb, timerRxCF := T, inbound := inb, events := ev } := by
  cases f with
  | single data =>
    rcases interruptReception_cases .receptionInterruptedBySingleFrame s with h | h <;>
      exact ⟨_, _, _, _, _, _, _, _, _, _, by rw [receiveFrame, receiveSingle, h.1]; rfl⟩
  | first L data =>
    obtain ⟨s1, rfl, h⟩ := receiveFirst_cases L data s
    rcases interruptReception_cases .receptionInterruptedByFirstFrame s with hi | hi <;> rw [hi.1] at h <;>
      rcases h with h | h <;> exact ⟨_, _, _, _, _, _, _, _, _, _, by rw [receiveFrame, h.2]; rfl⟩
  | consecutive sn data =>
    rw [receiveFrame, receiveConsecutive]
    split
    · exact ⟨_, _, _, _, _, _, _, _, _, _, rfl⟩
    · split
      · rcases acceptConsecutive_cases data s with h | h | h
        · exact ⟨_, _, _, _, _, _, _, _, _, _, by rw [h.2]; rfl⟩
        · exact ⟨_, _, _, _, _, _, _, _, _, _, by rw [h.2.2]⟩
        · exact ⟨_, _, _, _, _, _, _, _, _, _, by rw [h.2.2]⟩
      · exact ⟨_, _, _, _, _, _, _, _, _, _, rfl⟩
  | flowControl fc =>
    rw [receiveFrame, receiveFlowControl]
    split <;> exact ⟨_, _, _, _, _, _, _, _, _, _, rfl⟩

/-- The same of the whole receive phase. -/
theorem processReceive_frame (r : Option RawFrame) (s : State) :
    ∃ rx buf len sn bc pf mb T inb ev, processReceive r s =
      { s with
        rxState := rx, rxBuffer := buf, rxFrameLen := len, rxSeqNum := sn, rxBlockCounter := bc
        pendingFlowControlTx := pf, lastFlowControlFrame := mb, timerRxCF := T, inbound := inb, events := ev } := by
  rcases processReceive_cases r s with ⟨h, _⟩ | ⟨_, e, _, _, _, h⟩ | ⟨_, g, _, _, _, h⟩ <;> rw [h]
  · rcases checkCfTimeout_cases s with h | h <;> exact ⟨_, _, _, _, _, _, _, _, _, _, h.1⟩
  · rcases checkCfTimeout_cases (raise (.frameParseError e) s) with h | h <;>
      exact ⟨_, _, _, _, _, _, _, _, _, _, by rw [h.1]; rfl⟩
  · obtain ⟨_, _, _, _, _, _, _, _, _, _, h⟩ := receiveFrame_frame g (checkCfTimeout s)
    rw [h]
    rcases checkCfTimeout_cases s with h | h <;> rw [h.1] <;> exact ⟨_, _, _, _, _, _, _, _, _, _, rfl⟩

end Sys2Proof.Machine
end

