-- ==== Sys2Proof/Laws/Transmit.lean ====
section
/-! SUPPORT. Everything the operations of the transmit phase can do, one lemma for each. -/

namespace Sys2Proof.Machine

theorem txBlockFull_iff (s : State) :
    txBlockFull s = true ↔ s.remoteBlocksize.toNat ≠ 0 ∧ s.remoteBlocksize.toNat ≤ s.txBlockCounter := by
  have h : s.remoteBlocksize = 0 ↔ s.remoteBlocksize.toNat = 0 := by rw [← BitVec.toNat_inj]; rfl
  simp only [txBlockFull, Bool.and_eq_true, bne_iff_ne, ne_eq, h, decide_eq_true_eq]

theorem emit_ok {f : Frame} {s : State} {r : RawFrame} (h : encodeRaw s.C f = .ok r) :
    emit f s = .ok { s with txFrame := some r } := by simp only [emit, h]

/-- Emitting writes the frame, and only that. -/
theorem emit_cases {f : Frame} {s t : State} (h : emit f s = .ok t) :
    ∃ r, encodeRaw s.C f = .ok r ∧ t = { s with txFrame := some r } := by
  simp only [emit] at h
  split at h
  · simp at h
  · rename_i r hr
    exact ⟨r, hr, by simpa using h.symm⟩

/-- The flow-control frame of step 1. -/
theorem sendFlowControl_cases {s t : State} (h : sendFlowControl s = .ok t) :
    ∃ r, encodeRaw s.C (.flowControl ⟨.continueToSend, s.C.blocksize, 1000 * s.C.stminMs.toNat⟩) = .ok r ∧
      t = { s with
        pendingFlowControlTx := false, timerRxCF := ⟨true, s.clock, 1000 * s.C.cfTimeoutMs⟩, txFrame := some r } :=
  emit_cases h

/-- Reading the mailbox: nothing in it; a warning; a grant; a counted Wait; one Wait too many; an Overflow. -/
theorem serveMailbox_cases (s : State) :
    (s.lastFlowControlFrame = none ∧ serveMailbox s = s) ∨
    ∃ fc, s.lastFlowControlFrame = some fc ∧
      ((s.txState = .idle ∧ serveMailbox s = raise (.unexpectedFlowControl fc.flowStatus) (clearMailbox s)) ∨
       (s.txState ≠ .idle ∧ fc.flowStatus = .continueToSend ∧ serveMailbox s = adoptGrant fc (clearMailbox s)) ∨
       (s.txState ≠ .idle ∧ fc.flowStatus = .wait ∧ s.wftCounter + 1 ≤ s.C.wftMax ∧ serveMailbox s =
          { clearMailbox s with
            wftCounter := s.wftCounter + 1, timerRxFC := ⟨true, s.clock, 1000 * s.C.fcTimeoutMs⟩ }) ∨
       (s.txState ≠ .idle ∧ fc.flowStatus = .wait ∧ s.C.wftMax < s.wftCounter + 1 ∧ serveMailbox s =
          txReset (raise (.maxWaitFramesExceeded (s.wftCounter + 1)) (clearMailbox s))) ∨
       (s.txState ≠ .idle ∧ fc.flowStatus = .overflow ∧
          serveMailbox s = txReset (raise .overflowError (clearMailbox s)))) := by
  cases hm : s.lastFlowControlFrame with
  | none => exact .inl ⟨rfl, by simp only [serveMailbox, hm]⟩
  | some fc =>
    refine .inr ⟨fc, rfl, ?_⟩
    have e : serveMailbox s = actOnFlowControl fc (clearMailbox s) := by simp only [serveMailbox, hm]
    rw [e, actOnFlowControl]
    by_cases hi : s.txState = .idle
    · exact .inl ⟨hi, by simp [hi]⟩
    · rw [if_neg (show ¬ (clearMailbox s).txState = .idle from hi)]
      cases hf : fc.flowStatus with
      | continueToSend => exact .inr (.inl ⟨hi, rfl, rfl⟩)
      | wait =>
        by_cases hw : s.C.wftMax < s.wftCounter + 1
        · exact .inr (.inr (.inr (.inl ⟨hi, rfl, hw, if_pos hw⟩)))
        · exact .inr (.inr (.inl ⟨hi, rfl, by omega, if_neg hw⟩))
      | overflow => exact .inr (.inr (.inr (.inr ⟨hi, rfl, rfl⟩)))

/-- The flow-control timeout: nothing, or the abort. -/
theorem checkFcTimeout_cases (s : State) :
    (checkFcTimeout s = s ∧ expired s.timerRxFC s.clock = false) ∨
    (checkFcTimeout s = txReset (raise .timeoutFC s) ∧ expired s.timerRxFC s.clock = true) := by
  by_cases h : expired s.timerRxFC s.clock = true
  · exact .inr ⟨if_pos h, h⟩
  · exact .inl ⟨if_neg h, by simpa using h⟩

/-- The start of a send: no message, one SingleFrame, or the FirstFrame of a longer message. -/
theorem startNext_cases {s t : State} (h : startNext s = .ok t) :
    (s.outbound = [] ∧ t = s) ∨
    (∃ m q r, s.outbound = m :: q ∧ fitsSingle s.C m.length = true ∧ encodeRaw s.C (.single m) = .ok r ∧
      t = { s with outbound := q, txFrame := some r }) ∨
    (∃ m q r, s.outbound = m :: q ∧ fitsSingle s.C m.length = false ∧
      encodeRaw s.C (.first m.length (m.take (firstChunk s.C m.length))) = .ok r ∧
      t = { s with
        outbound := q, txFrameLen := m.length, txBuffer := m.drop (firstChunk s.C m.length), txSeqNum := 1
        txState := .waitFC, timerRxFC := ⟨true, s.clock, 1000 * s.C.fcTimeoutMs⟩, txFrame := some r }) := by
  cases ho : s.outbound with
  | nil =>
    simp only [startNext, ho, pop, Except.ok.injEq] at h
    exact .inl ⟨rfl, h.symm⟩
  | cons m q =>
    simp only [startNext, ho, pop] at h
    by_cases hf : fitsSingle s.C m.length = true
    · rw [if_pos hf] at h
      obtain ⟨r, hr, rfl⟩ := emit_cases h
      exact .inr (.inl ⟨m, q, r, rfl, hf, hr, rfl⟩)
    · rw [if_neg hf] at h
      obtain ⟨r, hr, rfl⟩ := emit_cases h
      exact .inr (.inr ⟨m, q, r, rfl, by simpa using hf, hr, rfl⟩)

/-- One ConsecutiveFrame: the send complete, the block used up, or in mid-block. -/
theorem emitConsecutive_cases {s t : State} (h : emitConsecutive s = .ok t) :
    ∃ r, encodeRaw s.C (.consecutive s.txSeqNum (s.txBuffer.take (consecutiveChunk s.C))) = .ok r ∧
    ((s.txBuffer.length ≤ consecutiveChunk s.C ∧ t = { txReset s with txFrame := some r }) ∨
     (consecutiveChunk s.C < s.txBuffer.length ∧
      (s.remoteBlocksize.toNat ≠ 0 ∧ s.remoteBlocksize.toNat ≤ s.txBlockCounter + 1) ∧ t =
      { s with
        txBuffer := s.txBuffer.drop (consecutiveChunk s.C), txSeqNum := s.txSeqNum + 1
        timerTxStmin := ⟨true, s.clock, s.remoteStminUs⟩, txBlockCounter := s.txBlockCounter + 1, txFrame := some r
        txState := .waitFC, timerRxFC := ⟨true, s.clock, 1000 * s.C.fcTimeoutMs⟩ }) ∨
     (consecutiveChunk s.C < s.txBuffer.length ∧
      ¬ (s.remoteBlocksize.toNat ≠ 0 ∧ s.remoteBlocksize.toNat ≤ s.txBlockCounter + 1) ∧ t =
      { s with
        txBuffer := s.txBuffer.drop (consecutiveChunk s.C), txSeqNum := s.txSeqNum + 1
        timerTxStmin := ⟨true, s.clock, s.remoteStminUs⟩, txBlockCounter := s.txBlockCounter + 1, txFrame := some r })) := by
  simp only [emitConsecutive] at h
  split at h
  · simp at h
  · rename_i s1 he
    obtain ⟨r, hr, rfl⟩ := emit_cases he
    simp only [Except.ok.injEq] at h
    refine ⟨r, hr, ?_⟩
    subst h
    simp only [afterConsecutive, txBlockFull_iff, List.drop_eq_nil_iff]
    by_cases hl : s.txBuffer.length ≤ consecutiveChunk s.C
    · exact .inl ⟨hl, by simp [hl, txReset]⟩
    · rw [if_neg hl]
      by_cases hb : s.remoteBlocksize.toNat ≠ 0 ∧ s.remoteBlocksize.toNat ≤ s.txBlockCounter + 1
      · exact .inr (.inl ⟨by omega, hb, if_pos hb⟩)
      · exact .inr (.inr ⟨by omega, hb, if_neg hb⟩)

/-- The transmit phase: step 1 alone, or steps 2 to 4. -/
theorem processTransmit_cases {s t : State} (h : processTransmit s = .ok t) :
    (s.pendingFlowControlTx = true ∧ sendFlowControl s = .ok t) ∨
    (s.pendingFlowControlTx = false ∧ driveState (checkFcTimeout (serveMailbox s)) = .ok t) := by
  cases hp : s.pendingFlowControlTx
  · exact .inr ⟨rfl, by simpa [processTransmit, hp] using h⟩
  · exact .inl ⟨rfl, by simpa [processTransmit, hp] using h⟩

/-- Step 4: nothing, the start of a send, or one ConsecutiveFrame. -/
theorem driveState_cases {s t : State} (h : driveState s = .ok t) :
    (s.txState = .idle ∧ startNext s = .ok t) ∨ (s.txState = .waitFC ∧ t = s) ∨
    (s.txState = .transmit ∧ expired s.timerTxStmin s.clock = true ∧ emitConsecutive s = .ok t) ∨
    (s.txState = .transmit ∧ expired s.timerTxStmin s.clock = false ∧ t = s) := by
  simp only [driveState] at h
  cases hs : s.txState <;> simp only [hs] at h
  · exact .inl ⟨rfl, h⟩
  · exact .inr (.inl ⟨rfl, by simpa using h.symm⟩)
  · cases he : expired s.timerTxStmin s.clock <;> simp only [he] at h
    · exact .inr (.inr (.inr ⟨rfl, rfl, by simpa using h.symm⟩))
    · exact .inr (.inr (.inl ⟨rfl, rfl, by simpa using h⟩))

/-! ### What the steps of the transmit phase never write -/

/-- Step 2 writes transmit registers, the mailbox and events. -/
theorem serveMailbox_frame (s : State) :
    ∃ ts tb tl tn tc w rb ru tf tp mb ev, serveMailbox s =
      { s with txState := ts, txBuffer := tb, txFrameLen := tl, txSeqNum := tn, txBlockCounter := tc, wftCounter := w,
               remoteBlocksize := rb, remoteStminUs := ru, timerRxFC := tf, timerTxStmin := tp, lastFlowControlFrame := mb, events := ev } := by
  rcases serveMailbox_cases s with ⟨_, e⟩ | ⟨fc, _, ⟨_, e⟩ | ⟨_, _, e⟩ | ⟨_, _, _, e⟩ | ⟨_, _, _, e⟩ | ⟨_, _, e⟩⟩ <;>
    rw [e] <;> exact ⟨_, _, _, _, _, _, _, _, _, _, _, _, rfl⟩

/-- Step 3 writes transmit registers and events. -/
theorem checkFcTimeout_frame (s : State) :
    ∃ ts tb tl tn tc w rb ru tf tp ev, checkFcTimeout s =
      { s with txState := ts, txBuffer := tb, txFrameLen := tl, txSeqNum := tn, txBlockCounter := tc, wftCounter := w,
               remoteBlocksize := rb, remoteStminUs := ru, timerRxFC := tf, timerTxStmin := tp, events := ev } := by
  rcases checkFcTimeout_cases s with ⟨e, _⟩ | ⟨e, _⟩ <;> rw [e] <;> exact ⟨_, _, _, _, _, _, _, _, _, _, _, rfl⟩

/-- Step 4 writes transmit registers, the emitted frame and at most the head of the outbound queue. -/
theorem driveState_frame {s t : State} (h : driveState s = .ok t) :
    ∃ ts tb tl tn tc w rb ru tf tp ob fr, t =
      { s with txState := ts, txBuffer := tb, txFrameLen := tl, txSeqNum := tn, txBlockCounter := tc, wftCounter := w,
               remoteBlocksize := rb, remoteStminUs := ru, timerRxFC := tf, timerTxStmin := tp, outbound := ob, txFrame := fr } ∧
      (ob = s.outbound ∨ ∃ m, s.outbound = m :: ob) := by
  rcases driveState_cases h with ⟨_, h⟩ | ⟨_, rfl⟩ | ⟨_, _, h⟩ | ⟨_, _, rfl⟩
  · rcases startNext_cases h with ⟨_, rfl⟩ | ⟨m, q, r, ho, _, _, rfl⟩ | ⟨m, q, r, ho, _, _, rfl⟩
    · exact ⟨_, _, _, _, _, _, _, _, _, _, _, _, rfl, .inl rfl⟩
    · exact ⟨_, _, _, _, _, _, _, _, _, _, _, _, rfl, .inr ⟨m, ho⟩⟩
    · exact ⟨_, _, _, _, _, _, _, _, _, _, _, _, rfl, .inr ⟨m, ho⟩⟩
  · exact ⟨_, _, _, _, _, _, _, _, _, _, _, _, rfl, .inl rfl⟩
  · obtain ⟨r, _, ⟨_, rfl⟩ | ⟨_, _, rfl⟩ | ⟨_, _, rfl⟩⟩ := emitConsecutive_cases h <;>
      exact ⟨_, _, _, _, _, _, _, _, _, _, _, _, rfl, .inl rfl⟩
  · exact ⟨_, _, _, _, _, _, _, _, _, _, _, _, rfl, .inl rfl⟩

/-! ### Events are output only

The transmit phase does the same whatever events stand before its own. -/

/-- `s` with `es` before its events. -/
def withEvents (es : List Event) (s : State) : State := { s with events := es ++ s.events }

theorem emit_withEvents (es : List Event) (f : Frame) (s : State) : emit f (withEvents es s) = (emit f s).map (withEvents es) := by
  simp only [emit, show (withEvents es s).C = s.C from rfl]
  cases encodeRaw s.C f <;> rfl

theorem checkFcTimeout_withEvents (es : List Event) (s : State) : checkFcTimeout (withEvents es s) = withEvents es (checkFcTimeout s) := by
  unfold checkFcTimeout
  rw [show (withEvents es s).timerRxFC = s.timerRxFC from rfl, show (withEvents es s).clock = s.clock from rfl]
  split
  · simp [abortTx, txReset, raise, withEvents]
  · rfl

theorem afterConsecutive_withEvents (es : List Event) (s : State) : afterConsecutive (withEvents es s) = withEvents es (afterConsecutive s) := by
  unfold afterConsecutive
  rw [show (withEvents es s).txBuffer = s.txBuffer from rfl, show txBlockFull (withEvents es s) = txBlockFull s from rfl]
  split
  · rfl
  · split <;> rfl

theorem driveState_withEvents (es : List Event) (s : State) : driveState (withEvents es s) = (driveState s).map (withEvents es) := by
  unfold driveState
  rw [show (withEvents es s).txState = s.txState from rfl, show (withEvents es s).clock = s.clock from rfl,
    show (withEvents es s).timerTxStmin = s.timerTxStmin from rfl]
  cases s.txState
  · simp only [startNext, show (withEvents es s).outbound = s.outbound from rfl, show (withEvents es s).C = s.C from rfl]
    cases s.outbound with
    | nil => rfl
    | cons m q =>
      simp only [pop]
      split
      · exact emit_withEvents es _ { s with outbound := q }
      · exact emit_withEvents es _
          { s with
            outbound := q, txFrameLen := m.length, txBuffer := m.drop (firstChunk s.C m.length), txSeqNum := 1
            txState := .waitFC, timerRxFC := armTimer s.clock (Config.ms s.C.fcTimeoutMs) }
  · rfl
  · simp only
    split
    · unfold emitConsecutive
      rw [emit_withEvents]
      simp only [show (withEvents es s).C = s.C from rfl, show (withEvents es s).txSeqNum = s.txSeqNum from rfl,
        show (withEvents es s).txBuffer = s.txBuffer from rfl]
      cases emit (Frame.consecutive s.txSeqNum (List.take (consecutiveChunk s.C) s.txBuffer)) s with
      | error e => rfl
      | ok s1 =>
        simp only [Except.map, Except.ok.injEq]
        exact afterConsecutive_withEvents es
          { s1 with
            txBuffer := s.txBuffer.drop (consecutiveChunk s.C), txSeqNum := s.txSeqNum + 1
            timerTxStmin := armTimer s.clock s.remoteStminUs, txBlockCounter := s.txBlockCounter + 1 }
    · rfl

theorem actOnFlowControl_withEvents (es : List Event) (fc : FlowControl) (s : State) : actOnFlowControl fc (withEvents es s) = withEvents es (actOnFlowControl fc s) := by
  unfold actOnFlowControl
  rw [show (withEvents es s).txState = s.txState from rfl]
  split
  · simp [raise, withEvents]
  · cases fc.flowStatus
    · rfl
    · simp only [countWait]
      rw [show (withEvents es s).C = s.C from rfl, show (withEvents es s).wftCounter = s.wftCounter from rfl]
      split
      · simp [abortTx, txReset, raise, withEvents]
      · rfl
    · simp [abortTx, txReset, raise, withEvents]

theorem serveMailbox_withEvents (es : List Event) (s : State) : serveMailbox (withEvents es s) = withEvents es (serveMailbox s) := by
  unfold serveMailbox
  rw [show (withEvents es s).lastFlowControlFrame = s.lastFlowControlFrame from rfl]
  cases s.lastFlowControlFrame with
  | none => rfl
  | some fc => exact actOnFlowControl_withEvents es fc (clearMailbox s)

theorem processTransmit_withEvents (es : List Event) (s : State) : processTransmit (withEvents es s) = (processTransmit s).map (withEvents es) := by
  unfold processTransmit
  rw [show (withEvents es s).pendingFlowControlTx = s.pendingFlowControlTx from rfl]
  split
  · exact emit_withEvents es _
      { s with pendingFlowControlTx := false, timerRxCF := armTimer s.clock (Config.ms s.C.cfTimeoutMs) }
  · rw [serveMailbox_withEvents, checkFcTimeout_withEvents, driveState_withEvents]

end Sys2Proof.Machine
end

