-- ==== Sys2Proof/Laws/HostOps.lean ====
section
/-! SUPPORT. What the shared parts of the host operations answer: the start of an operation, the construction check, the range
checks. -/

namespace Sys2Proof.Machine

theorem wireOp_live {f : State → State} {s : State} (h : s.live = true) : wireOp f s = .next (f s) := by simp [wireOp, h]

theorem hostOp_live {f : State → State} {s : State} (h : s.live = true) : hostOp f s = .next (f (beginOp s)) := by
  simp [hostOp, h]

/-- A process operation runs exactly on a live Transport, with no frame or a well-formed one, at a clock sample that does not go
back. -/
theorem beginProcess_ok_iff {now : Nat} {rx : Option RawFrame} {s t : State} :
    beginProcess now rx s = .ok t ↔
      s.live = true ∧ rxFrameOk rx = true ∧ s.clock ≤ now ∧ t = { beginOp s with clock := now } := by
  simp only [beginProcess]
  by_cases h1 : s.live = false
  · simp [h1]
  · by_cases h2 : rxFrameOk rx = false
    · simp [h1, h2]
    · by_cases h3 : now < s.clock
      · simp [h1, h2, h3]
      · rw [if_neg h1, if_neg h2, if_neg h3]
        simp only [Except.ok.injEq]
        exact ⟨fun h => ⟨by simpa using h1, by simpa using h2, by omega, h.symm⟩, fun h => h.2.2.2.symm⟩

theorem idWidth_pow_le (a : Address) : 2 ^ idWidth a ≤ 2 ^ 29 := by unfold idWidth; split <;> decide

/-- What an address that passes the construction check satisfies. -/
theorem checkAddress_ok {a b : Address} (h : checkAddress a = .ok b) :
    a = b ∧ a.txId < 2 ^ idWidth a ∧ a.rxId < 2 ^ idWidth a ∧ a.txId ≠ a.rxId ∧
      (hasExtension a.mode = true → ∃ e, a.ext = some e) := by
  simp only [checkAddress] at h
  split at h
  · simp at h
  · split at h
    · simp at h
    · split at h
      · simp at h
      · rename_i h1 h2 h3
        simp only [Bool.and_eq_true, not_and, Except.ok.injEq] at h3 h
        exact ⟨h, by omega, by omega, h2, fun h4 => Option.ne_none_iff_exists'.1 (fun he => h3 h4 (by rw [he]; rfl))⟩

/-- The transmit prefix of such an address is as long as the receive prefix, at most one byte. -/
theorem txPayloadPrefix_length {a b : Address} (h : checkAddress a = .ok b) :
    (txPayloadPrefix a).length = rxPrefixSize a ∧ (txPayloadPrefix a).length ≤ 1 := by
  obtain ⟨-, -, -, -, he⟩ := checkAddress_ok h
  cases hx : hasExtension a.mode
  · simp [txPayloadPrefix, rxPrefixSize, hx]
  · obtain ⟨e, he⟩ := he hx
    simp [txPayloadPrefix, rxPrefixSize, hx, he]

end Sys2Proof.Machine
end

