-- ==== Sys2Proof/Laws/Invariant.lean ====
section
/-! SUPPORT. How the operations of the two phases keep the invariant of Sys2Proof/Safety.lean. -/

namespace Sys2Proof.Machine

/-- The reset of the receive side establishes its invariant. -/
theorem rxInv_rxReset (s : State) : RxInv (rxReset s) := by
  refine ⟨?_, ?_, ?_, ?_, ?_⟩ <;> simp

/-- The receive invariant reads the receive registers only. -/
theorem rxInv_ext {s t : State} (h : RxInv s) (e1 : t.rxState = s.rxState) (e2 : t.rxBuffer = s.rxBuffer)
    (e3 : t.rxFrameLen = s.rxFrameLen) (e4 : t.rxSeqNum = s.rxSeqNum) (e5 : t.rxBlockCounter = s.rxBlockCounter)
    (e6 : t.timerRxCF = s.timerRxCF) (e7 : t.pendingFlowControlTx = s.pendingFlowControlTx) : RxInv t := by
  rcases h with ⟨h1, h2, h3, h4, h5⟩
  refine ⟨?_, ?_, ?_, ?_, ?_⟩ <;> simpa only [e1, e2, e3, e4, e5, e6, e7]

/-- The transmit invariant reads the transmit registers only. -/
theorem txInv_ext {s t : State} (h : TxInv s) (e1 : t.txState = s.txState) (e2 : t.txBuffer = s.txBuffer)
    (e3 : t.txFrameLen = s.txFrameLen) (e4 : t.txSeqNum = s.txSeqNum) (e5 : t.txBlockCounter = s.txBlockCounter)
    (e6 : t.wftCounter = s.wftCounter) (e7 : t.remoteBlocksize = s.remoteBlocksize) (e8 : t.remoteStminUs = s.remoteStminUs)
    (e9 : t.timerRxFC = s.timerRxFC) (e10 : t.timerTxStmin = s.timerTxStmin) : TxInv t := by
  rcases h with ⟨h1, h2, h3, h4, h5, h6⟩
  refine ⟨?_, ?_, ?_, ?_, ?_, ?_⟩ <;> simpa only [e1, e2, e3, e4, e5, e6, e7, e8, e9, e10]

/-- The reset of the transmit side establishes its invariant. -/
theorem txInv_txReset (s : State) : TxInv (txReset s) := by
  refine ⟨?_, ?_, ?_, ?_, ?_, ?_⟩ <;> simp [stminLegal]

theorem rxInv_checkCfTimeout {s : State} (h : RxInv s) : RxInv (checkCfTimeout s) := by
  rcases checkCfTimeout_cases s with ⟨e, _⟩ | ⟨e, _⟩ <;> rw [e]
  · exact h
  · exact rxInv_rxReset _

/-- The fields of a decoded frame are in the ranges of R105. -/
def FrameInRange (g : Frame) : Prop :=
  (∀ data, g = .single data → 1 ≤ data.length ∧ data.length ≤ 255) ∧
    (∀ L data, g = .first L data → 1 ≤ L ∧ L ≤ Config.msgLenMax) ∧
    (∀ fc, g = .flowControl fc → stminLegal fc.stminUs = true)

theorem rxInv_receiveFrame {g : Frame} {s : State} (hg : FrameInRange g) (h : RxInv s) : RxInv (receiveFrame g s) := by
  cases g with
  | single d =>
    rw [receiveFrame, receiveSingle]
    rcases interruptReception_cases .receptionInterruptedBySingleFrame s with ⟨e, _⟩ | ⟨e, _⟩ <;>
      exact rxInv_ext (rxInv_rxReset s) (by simp [e]) (by simp [e]) (by simp [e]) (by simp [e]) (by simp [e]) (by simp [e]) (by simp [e])
  | first L d =>
    rw [receiveFrame]
    obtain ⟨s1, rfl, ⟨_, e⟩ | ⟨hl, e⟩⟩ := receiveFirst_cases L d s <;> rw [e]
    · exact rxInv_rxReset _
    · refine ⟨?_, ?_, ?_, ?_, ?_⟩ <;> simp [hl, (hg.2.1 L d rfl).2]
  | consecutive sn d =>
    rw [receiveFrame, receiveConsecutive]
    split
    · exact rxInv_rxReset _
    · split
      · have hs : s.rxState = .waitCF := by cases hh : s.rxState <;> simp_all
        have := h.waiting hs
        have h5 := h.frameLen
        rcases acceptConsecutive_cases d s with ⟨_, e⟩ | ⟨hl, _, e⟩ | ⟨hl, _, e⟩ <;> rw [e]
        · exact rxInv_rxReset _
        · refine ⟨?_, ?_, ?_, ?_, ?_⟩ <;> simp [hs, hl, h5]
        · refine ⟨?_, ?_, ?_, ?_, ?_⟩ <;> simp [hs, hl, h5]
      · exact rxInv_rxReset _
  | flowControl fc =>
    rw [receiveFrame, receiveFlowControl]
    split
    · rename_i hw
      have h2 := h.waiting hw.1
      have h5 := h.frameLen
      refine ⟨?_, ?_, ?_, ?_, ?_⟩ <;> simp [hw, h2, h5]
    · exact rxInv_ext h rfl rfl rfl rfl rfl rfl rfl

/-- The queue invariant reads the queues and the mailbox only. -/
theorem queueInv_ext {s t : State} (h : QueueInv s) (e1 : t.inbound = s.inbound) (e2 : t.outbound = s.outbound)
    (e3 : t.lastFlowControlFrame = s.lastFlowControlFrame) : QueueInv t := by
  rcases h with ⟨h1, h2, h3⟩
  refine ⟨?_, ?_, ?_⟩ <;> simpa only [e1, e2, e3]

theorem queueInv_push {s t : State} (h : QueueInv s) {m : Bytes} (hm : m.length ≤ Config.msgLenMax) (e1 : t.inbound = s.inbound ++ [m]) (e2 : t.outbound = s.outbound)
    (e3 : t.lastFlowControlFrame = s.lastFlowControlFrame) : QueueInv t := by
  rcases h with ⟨h1, h2, h3⟩
  refine ⟨?_, by simpa only [e2], by simpa only [e3]⟩
  intro x hx
  rw [e1, List.mem_append] at hx
  rcases hx with hx | hx
  · exact h1 x hx
  · simp at hx; subst hx; exact hm

theorem queueInv_receiveFrame {g : Frame} {s : State} (hg : FrameInRange g) (hr : RxInv s) (h : QueueInv s) : QueueInv (receiveFrame g s) := by
  cases g with
  | single d =>
    rw [receiveFrame, receiveSingle]
    rcases interruptReception_cases .receptionInterruptedBySingleFrame s with ⟨e, _⟩ | ⟨e, _⟩ <;>
      exact queueInv_push h (m := d) (by have := hg.1 d rfl; simp only [Config.msgLenMax]; omega) (by simp [e, push]) (by simp [e]) (by simp [e])
  | first L d =>
    rw [receiveFrame]
    obtain ⟨s1, rfl, ⟨_, e⟩ | ⟨hl, e⟩⟩ := receiveFirst_cases L d s <;> rw [e] <;>
    rcases interruptReception_cases .receptionInterruptedByFirstFrame s with ⟨e, _⟩ | ⟨e, _⟩
    · exact queueInv_push h (m := d.take L) (by have := (hg.2.1 L d rfl).2; simp; omega) (by simp [e]) (by simp [e]) (by simp [e])
    · exact queueInv_push h (m := d.take L) (by have := (hg.2.1 L d rfl).2; simp; omega) (by simp [e]) (by simp [e]) (by simp [e])
    · exact queueInv_ext h (by simp [e]) (by simp [e]) (by simp [e])
    · exact queueInv_ext h (by simp [e]) (by simp [e]) (by simp [e])
  | consecutive sn d =>
    rw [receiveFrame, receiveConsecutive]
    split
    · exact queueInv_ext h rfl rfl rfl
    · split
      · have hs : s.rxState = .waitCF := by cases hh : s.rxState <;> simp_all
        have := hr.waiting hs
        have h5 := hr.frameLen
        rcases acceptConsecutive_cases d s with ⟨_, e⟩ | ⟨hl, _, e⟩ | ⟨hl, _, e⟩ <;> rw [e]
        · exact queueInv_push h (m := s.rxBuffer ++ d.take (s.rxFrameLen - s.rxBuffer.length)) (by simp; omega) rfl rfl rfl
        · exact queueInv_ext h rfl rfl rfl
        · exact queueInv_ext h rfl rfl rfl
      · exact queueInv_ext h rfl rfl rfl
  | flowControl fc =>
    rw [receiveFrame, receiveFlowControl]
    split <;> exact ⟨h.inbound, h.outbound, by rintro _ ⟨⟩; exact hg.2.2 fc rfl⟩

theorem inv_checkCfTimeout {s : State} (h : Inv s) : Inv (checkCfTimeout s) := by
  refine ⟨?_, rxInv_checkCfTimeout h.rx, ?_, ?_⟩
  all_goals rcases checkCfTimeout_cases s with ⟨e, _⟩ | ⟨e, _⟩ <;> rw [e]
  · exact h.config
  · exact h.config
  · exact h.tx
  · exact txInv_ext h.tx rfl rfl rfl rfl rfl rfl rfl rfl rfl rfl
  · exact h.queues
  · exact queueInv_ext h.queues rfl rfl rfl

theorem inv_receiveFrame {g : Frame} {s : State} (hg : FrameInRange g) (h : Inv s) : Inv (receiveFrame g s) := by
  refine ⟨?_, rxInv_receiveFrame hg h.rx, ?_, queueInv_receiveFrame hg h.rx h.queues⟩
  all_goals
    obtain ⟨_, _, _, _, _, _, _, _, _, _, e⟩ := receiveFrame_frame g s
    rw [e]
  · exact h.config
  · exact txInv_ext h.tx rfl rfl rfl rfl rfl rfl rfl rfl rfl rfl

/-- The receive phase keeps the invariant. -/
theorem inv_processReceive {rx : Option RawFrame} {s : State} (h : Inv s) : Inv (processReceive rx s) := by
  rcases processReceive_cases rx s with ⟨e, _⟩ | ⟨f, x, _, _, _, e⟩ | ⟨f, g, _, _, hp, e⟩ <;> rw [e]
  · exact inv_checkCfTimeout h
  · exact inv_checkCfTimeout (s := raise _ s) ⟨h.config, rxInv_ext h.rx rfl rfl rfl rfl rfl rfl rfl, txInv_ext h.tx rfl rfl rfl rfl rfl rfl rfl rfl rfl rfl, queueInv_ext h.queues rfl rfl rfl⟩
  · exact inv_receiveFrame (parse_ok_fields hp) (inv_checkCfTimeout h)

theorem inv_serveMailbox {s : State} (h : Inv s) : Inv (serveMailbox s) := by
  have hq : ∀ t : State, t.inbound = s.inbound → t.outbound = s.outbound → t.lastFlowControlFrame = none → QueueInv t := by
    intro t e1 e2 e3
    exact ⟨by rw [e1]; exact h.queues.inbound, by rw [e2]; exact h.queues.outbound, by rw [e3]; simp⟩
  have hr : ∀ t : State, t.rxState = s.rxState → t.rxBuffer = s.rxBuffer → t.rxFrameLen = s.rxFrameLen → t.rxSeqNum = s.rxSeqNum →
     t.rxBlockCounter = s.rxBlockCounter → t.timerRxCF = s.timerRxCF → t.pendingFlowControlTx = s.pendingFlowControlTx → RxInv t :=
    fun t => rxInv_ext h.rx
  rcases serveMailbox_cases s with ⟨_, e⟩ | ⟨fc, hm, ⟨_, e⟩ | ⟨hn, hf, e⟩ | ⟨hn, _, _, e⟩ | ⟨_, _, _, e⟩ | ⟨_, _, e⟩⟩ <;> rw [e]
  · exact h
  · exact ⟨h.config, hr _ rfl rfl rfl rfl rfl rfl rfl, txInv_ext h.tx rfl rfl rfl rfl rfl rfl rfl rfl rfl rfl, hq _ rfl rfl rfl⟩
  · refine ⟨h.config, hr _ rfl rfl rfl rfl rfl rfl rfl, ?_, hq _ rfl rfl rfl⟩
    have h2 := h.tx.sending hn
    have h5 := h.tx.frameLen
    have h6 := h.queues.mailbox fc hm
    refine ⟨?_, ?_, ?_, ?_, ?_, ?_⟩ <;> simp [adoptGrant, h2, h5, h6]
  · refine ⟨h.config, hr _ rfl rfl rfl rfl rfl rfl rfl, ?_, hq _ rfl rfl rfl⟩
    rcases h.tx with ⟨h1, h2, h3, h4, h5, h6⟩
    exact ⟨fun hh => absurd hh hn, h2, h3, fun _ => rfl, h5, h6⟩
  · exact ⟨h.config, hr _ rfl rfl rfl rfl rfl rfl rfl, txInv_txReset _, hq _ rfl rfl rfl⟩
  · exact ⟨h.config, hr _ rfl rfl rfl rfl rfl rfl rfl, txInv_txReset _, hq _ rfl rfl rfl⟩

theorem inv_checkFcTimeout {s : State} (h : Inv s) : Inv (checkFcTimeout s) := by
  rcases checkFcTimeout_cases s with ⟨e, _⟩ | ⟨e, _⟩ <;> rw [e]
  · exact h
  · exact ⟨h.config, rxInv_ext h.rx rfl rfl rfl rfl rfl rfl rfl, txInv_txReset _, queueInv_ext h.queues rfl rfl rfl⟩

/-- A FirstFrame carries at least one byte of the message and never all of it (R271, corner case (a)). -/
theorem firstChunk_lt {C : ConfigRegs} {L : Nat} (hC : ConfigInv C) (h : fitsSingle C L = false) : firstChunk C L < L ∧ 1 ≤ firstChunk C L := by
  have hp := (txPayloadPrefix_length hC.address).2
  have hM : C.maxDataLength = 8 ∨ C.maxDataLength = 64 := hC.dataLength
  have h := of_decide_eq_false h
  simp only [singlePci, Config.sfDlShortMax] at h
  simp only [firstChunk, Config.ffDlShortMax]
  rcases hM with hc | hc <;> rw [hc] at h ⊢ <;> split at h <;> split <;> omega

theorem queueInv_pop {s t : State} (h : QueueInv s) {m : Bytes} {q : List Bytes} (ho : s.outbound = m :: q) (e1 : t.inbound = s.inbound) (e2 : t.outbound = q)
    (e3 : t.lastFlowControlFrame = s.lastFlowControlFrame) : QueueInv t := by
  rcases h with ⟨h1, h2, h3⟩
  refine ⟨by simpa only [e1], ?_, by simpa only [e3]⟩
  rw [e2]; intro x hx; exact h2 x (by rw [ho]; exact List.mem_cons_of_mem _ hx)

theorem inv_driveState {s t : State} (h : Inv s) (hd : driveState s = .ok t) : Inv t := by
  rcases driveState_cases hd with ⟨hi, hd⟩ | ⟨_, rfl⟩ | ⟨hs, he, hd⟩ | ⟨_, _, rfl⟩
  · rcases startNext_cases hd with ⟨_, rfl⟩ | ⟨m, q, r, ho, _, _, rfl⟩ | ⟨m, q, r, ho, hf, _, rfl⟩
    · exact h
    · exact ⟨h.config, rxInv_ext h.rx rfl rfl rfl rfl rfl rfl rfl, txInv_ext h.tx rfl rfl rfl rfl rfl rfl rfl rfl rfl rfl, queueInv_pop h.queues ho rfl rfl rfl⟩
    · refine ⟨h.config, rxInv_ext h.rx rfl rfl rfl rfl rfl rfl rfl, ?_, queueInv_pop h.queues ho rfl rfl rfl⟩
      have hk := firstChunk_lt h.config hf
      have hm := h.queues.outbound m (by rw [ho]; exact List.mem_cons_self)
      refine ⟨by simp, fun _ => ⟨?_, ?_⟩, by simp, by simp, hm.2, h.tx.separation⟩
      · simp [List.drop_eq_nil_iff]; omega
      · simp; omega
  · exact h
  · have h1 := (h.tx.sending (by rw [hs]; simp)).2
    obtain ⟨r, _, ⟨_, rfl⟩ | ⟨hc, _, rfl⟩ | ⟨hc, _, rfl⟩⟩ := emitConsecutive_cases hd
    · exact ⟨h.config, rxInv_ext h.rx rfl rfl rfl rfl rfl rfl rfl, txInv_ext (txInv_txReset s) rfl rfl rfl rfl rfl rfl rfl rfl rfl rfl, queueInv_ext h.queues rfl rfl rfl⟩
    · refine ⟨h.config, rxInv_ext h.rx rfl rfl rfl rfl rfl rfl rfl, ?_, queueInv_ext h.queues rfl rfl rfl⟩
      refine ⟨by simp, fun _ => ⟨?_, ?_⟩, by simp, by simp, h.tx.frameLen, h.tx.separation⟩
      · simp [List.drop_eq_nil_iff]; omega
      · simp; omega
    · refine ⟨h.config, rxInv_ext h.rx rfl rfl rfl rfl rfl rfl rfl, ?_, queueInv_ext h.queues rfl rfl rfl⟩
      refine ⟨by simp [hs], fun _ => ⟨?_, ?_⟩, by simp, by simp [hs], h.tx.frameLen, h.tx.separation⟩
      · simp [List.drop_eq_nil_iff]; omega
      · simp; omega
  · exact h

/-- The transmit phase keeps the invariant, whenever it answers a state. -/
theorem inv_processTransmit {s t : State} (h : Inv s) (hd : processTransmit s = .ok t) : Inv t := by
  rcases processTransmit_cases hd with ⟨hp, hd⟩ | ⟨_, hd⟩
  · obtain ⟨r, _, rfl⟩ := sendFlowControl_cases hd
    have hw := h.rx.pending hp
    have h2 := h.rx.waiting hw
    refine ⟨h.config, ⟨by simp [hw], by simp [h2], by simp, by simp, h.rx.frameLen⟩, txInv_ext h.tx rfl rfl rfl rfl rfl rfl rfl rfl rfl rfl, queueInv_ext h.queues rfl rfl rfl⟩
  · exact inv_driveState (inv_checkFcTimeout (inv_serveMailbox h)) hd

end Sys2Proof.Machine
end

