-- ==== Sys2Proof/Laws/PerInstr.lean ====
section
/-! SUPPORT. The family RoundTrip: for each instruction, decoding its encoding gives it back, every operand at every value its
encoding admits. -/

namespace Sys2Proof.Laws.RoundTrip

open Sys2Proof

/-- The decoder reads back the encoding of `i`, if `i` is well formed. -/
def Statement (i : Instr) : Prop := i.wf = true → decode (encode i) = .ok i

theorem sf (data : Bytes) : Statement (.sf data) := by
  intro h
  simp only [Instr.wf, Bool.and_eq_true, decide_eq_true_eq] at h
  have e := parse_sfBytes (tail := []) h.1 h.2
  rw [List.append_nil] at e
  simp only [encode, decode, decodeWire, e, pciLength_sfBytes h.1 h.2, wireInstr, if_pos]

theorem sfEsc (data : Bytes) : Statement (.sfEsc data) := by
  intro h
  simp only [Instr.wf, Bool.and_eq_true, decide_eq_true_eq] at h
  have e := parse_sfEscBytes (tail := []) h.1 (by omega)
  rw [List.append_nil] at e
  simp [encode, decode, decodeWire, e, pciLength_sfEscBytes, wireInstr]

theorem ff (totalSize : Nat) (data : Bytes) : Statement (.ff totalSize data) := by
  intro h
  simp only [Instr.wf, Bool.and_eq_true, decide_eq_true_eq] at h
  simp only [encode, decode, decodeWire, parse_ffBytes h.1.1 h.1.2, pciLength_ffBytes h.1.1 h.1.2, wireInstr, if_pos]

theorem ffEsc (totalSize : Nat) (data : Bytes) : Statement (.ffEsc totalSize data) := by
  intro h
  simp only [Instr.wf, Bool.and_eq_true, decide_eq_true_eq] at h
  simp [encode, decode, decodeWire, parse_ffEscBytes h.1.1 h.1.2, pciLength_ffEscBytes, wireInstr]

theorem cf (sequenceNumber : BitVec 4) (data : Bytes) : Statement (.cf sequenceNumber data) := by
  intro _
  simp [encode, decode, decodeWire, parse_cfBytes, wireInstr]

theorem fcCts (blockSize : Byte) (stminUs : Nat) : Statement (.fcCts blockSize stminUs) := by
  intro h
  have e := parse_fcBytes (fc := ⟨.continueToSend, blockSize, stminUs⟩) (tail := []) h
  rw [List.append_nil] at e
  simp only [encode, decode, decodeWire, e, wireInstr]

theorem fcWait (blockSize : Byte) (stminUs : Nat) : Statement (.fcWait blockSize stminUs) := by
  intro h
  have e := parse_fcBytes (fc := ⟨.wait, blockSize, stminUs⟩) (tail := []) h
  rw [List.append_nil] at e
  simp only [encode, decode, decodeWire, e, wireInstr]

theorem fcOvflw (blockSize : Byte) (stminUs : Nat) : Statement (.fcOvflw blockSize stminUs) := by
  intro h
  have e := parse_fcBytes (fc := ⟨.overflow, blockSize, stminUs⟩) (tail := []) h
  rw [List.append_nil] at e
  simp only [encode, decode, decodeWire, e, wireInstr]

theorem reset (addrCfg : Address) (cfg : CfgArgs) : Statement (.reset addrCfg cfg) := fun _ => rfl

theorem send (payload : Bytes) : Statement (.send payload) := fun _ => rfl

theorem receive : Statement .receive := fun _ => rfl

theorem setFdMode (on : Bool) : Statement (.setFdMode on) := fun _ => rfl

theorem process (now : Nat) (rxFrame : Option RawFrame) : Statement (.process now rxFrame) := fun _ => rfl

theorem processRx (now : Nat) (rxFrame : Option RawFrame) : Statement (.processRx now rxFrame) := fun _ => rfl

theorem processTx (now : Nat) : Statement (.processTx now) := fun _ => rfl

theorem cfgWrite (reg value : Nat) : Statement (.cfgWrite reg value) := fun _ => rfl

end Sys2Proof.Laws.RoundTrip
end

