-- ==== Sys2Proof/Tests/Slice0.lean ====
section
/-! SUPPORT. The model's own tests: the checks of WellFormed, words written out from the spec's encodings, single steps with
results of `95_test_vectors.md` or of the rule named, and for every statement a state and operands that meet its hypotheses. -/

namespace Sys2Proof.Tests

open Sys2Proof Sys2Proof.Machine

/-! ### Small states -/

/-- The state an instruction leaves, if it leaves one. -/
def after (i : Instr) (s : State) : Option State :=
  match exec i s with
  | .next t => some t
  | _ => none

/-- Why an instruction is refused, if it is. -/
def refusal (i : Instr) (s : State) : Option Refusal :=
  match exec i s with
  | .refused r => some r
  | _ => none

/-- The state a step leaves, if it leaves one. -/
def afterStep (s : State) : Option State :=
  match step s with
  | .next t => some t
  | _ => none

/-- An FD configuration with the address of program P7. -/
def extAddress : Address := ⟨.extended, 0x18DA00F1, 0x18DAF100, some 0x55, true⟩

/-- The peer of `extAddress`. -/
def extPeer : Address := ⟨.extended, 0x18DAF100, 0x18DA00F1, some 0x55, true⟩

/-- The reset state at `extAddress`, in FD mode. -/
def extState : State := { State.reset with C.addr := extAddress, C.maxDataLength := 64 }

/-- A reassembly after V43-3 and its flow-control frame: 6 of 20 bytes, block size `bs`. -/
def receiving (bs : Byte) : State :=
  { State.reset with
    rxState := .waitCF, rxBuffer := [0, 1, 2, 3, 4, 5], rxFrameLen := 20, rxSeqNum := 1, timerRxCF := ⟨true, 0, 1000000⟩
    C.blocksize := bs }

/-- The state WF of `95_test_vectors.md` section 2.6. -/
def awaiting : State :=
  { State.reset with
    txState := .waitFC, txBuffer := [6, 7, 8, 9, 10, 11, 12, 13, 14, 15, 16, 17, 18, 19], txFrameLen := 20, txSeqNum := 1
    timerRxFC := ⟨true, 0, 1000000⟩ }

/-- WF with a frame of the peer in the mailbox. -/
def told (st : FlowStatus) (bs : Byte) (u : Nat) : State := { awaiting with lastFlowControlFrame := some ⟨st, bs, u⟩ }

/-- A send in mid-block: STmin 5 ms, the pacing timer armed at 1000. -/
def pacing (bs : Byte) : State :=
  { State.reset with
    txState := .transmit, txBuffer := [13, 14, 15, 16, 17, 18, 19, 20], txFrameLen := 21, txSeqNum := 2, txBlockCounter := 1
    remoteBlocksize := bs, remoteStminUs := 5000, timerTxStmin := ⟨true, 1000, 5000⟩ }

/-- A classic frame of the peer of the reset state. -/
def frame (data : Bytes) : RawFrame := ⟨0x702, data, false⟩

/-! ### WellFormed refuses -/

theorem test_wf_sf_empty : (Instr.sf []).wf = false := by decide
theorem test_wf_sf_long : (Instr.sf (List.replicate 16 0)).wf = false := by decide
theorem test_wf_sfEsc_empty : (Instr.sfEsc []).wf = false := by decide
theorem test_wf_sfEsc_long : (Instr.sfEsc (List.replicate 63 0)).wf = false := by decide
theorem test_wf_ff_zero : (Instr.ff 0 []).wf = false := by decide
theorem test_wf_ff_length : (Instr.ff 4096 []).wf = false := by decide
theorem test_wf_ff_data : (Instr.ff 100 (List.replicate 63 0)).wf = false := by decide
theorem test_wf_ffEsc_zero : (Instr.ffEsc 0 []).wf = false := by decide
theorem test_wf_ffEsc_length : (Instr.ffEsc (2 ^ 32) []).wf = false := by decide
theorem test_wf_ffEsc_data : (Instr.ffEsc 100 (List.replicate 59 0)).wf = false := by decide
theorem test_wf_cf_data : (Instr.cf 0 (List.replicate 64 0)).wf = false := by decide
theorem test_wf_fcCts_stmin : (Instr.fcCts 0 1500).wf = false := by decide
theorem test_wf_fcWait_stmin : (Instr.fcWait 0 128000).wf = false := by decide
theorem test_wf_fcOvflw_stmin : (Instr.fcOvflw 0 50).wf = false := by decide
theorem test_wf_reset_blocksize : (Instr.reset exampleAddress ⟨256, 0, 0, none, none, none⟩).wf = false := by decide
theorem test_wf_reset_stmin : (Instr.reset exampleAddress ⟨0, 128, 0, none, none, none⟩).wf = false := by decide
theorem test_wf_reset_padByte : (Instr.reset exampleAddress ⟨0, 0, 0, none, none, some 256⟩).wf = false := by decide
theorem test_wf_send_empty : (Instr.send []).wf = false := by decide
theorem test_wf_process_id : (Instr.process 0 (some ⟨2 ^ 29, [], false⟩)).wf = false := by decide
theorem test_wf_process_fd_data : (Instr.process 0 (some ⟨0x702, List.replicate 65 0, true⟩)).wf = false := by decide
theorem test_wf_processRx_classic_data : (Instr.processRx 0 (some (frame (List.replicate 9 0)))).wf = false := by decide
theorem test_wf_cfgWrite_register : (Instr.cfgWrite 6 64).wf = false := by decide
theorem test_wf_cfgWrite_blocksize : (Instr.cfgWrite 0 256).wf = false := by decide
theorem test_wf_cfgWrite_stmin : (Instr.cfgWrite 1 128).wf = false := by decide
theorem test_wf_cfgWrite_padByte : (Instr.cfgWrite 5 256).wf = false := by decide

/-! ### Decoding: one word for each constructor, its bits written out from R106 to R109 and R135 -/

theorem test_decode_sf : decode (.payload [0b00000011, 0x22, 0xF0, 0xFA]) = .ok (.sf [0x22, 0xF0, 0xFA]) := by rfl
theorem test_decode_sfEsc : decode (.payload [0b00000000, 0b00000001, 0xAA, 0xCC]) = .ok (.sfEsc [0xAA]) := by rfl
theorem test_decode_ff : decode (.payload [0b00011111, 0b11111111, 0, 1]) = .ok (.ff 4095 [0, 1]) := by rfl
theorem test_decode_ffEsc :
    decode (.payload [0b00010000, 0b00000000, 0x01, 0x02, 0x03, 0x04, 7]) = .ok (.ffEsc 16909060 [7]) := by rfl
theorem test_decode_cf : decode (.payload [0b00101010, 1, 2, 3]) = .ok (.cf 10 [1, 2, 3]) := by rfl
theorem test_decode_fcCts : decode (.payload [0b00110000, 8, 20]) = .ok (.fcCts 8 20000) := by rfl
theorem test_decode_fcWait : decode (.payload [0b00110001, 0, 0xF5]) = .ok (.fcWait 0 500) := by rfl
theorem test_decode_fcOvflw : decode (.payload [0b00110010, 5, 0x7F, 0xAA]) = .ok (.fcOvflw 5 127000) := by rfl
theorem test_decode_reset :
    decode (.command { zeroCommand 0b0000 with addrCfg := exampleAddress, cfg := exampleCfg }) =
      .ok (.reset exampleAddress exampleCfg) := by rfl
theorem test_decode_send : decode (.command { zeroCommand 0b0001 with payload := [0x3E, 0] }) = .ok (.send [0x3E, 0]) := by rfl
theorem test_decode_receive : decode (.command (zeroCommand 0b0010)) = .ok .receive := by rfl
theorem test_decode_setFdMode : decode (.command { zeroCommand 0b0011 with on := true }) = .ok (.setFdMode true) := by rfl
theorem test_decode_process :
    decode (.command { zeroCommand 0b0100 with now := 9, rxFrame := some (frame [0x21]) }) =
      .ok (.process 9 (some (frame [0x21]))) := by rfl
theorem test_decode_processRx :
    decode (.command { zeroCommand 0b0101 with now := 9, rxFrame := some (frame [0x21]) }) =
      .ok (.processRx 9 (some (frame [0x21]))) := by rfl
theorem test_decode_processTx : decode (.command { zeroCommand 0b0110 with now := 9 }) = .ok (.processTx 9) := by rfl
theorem test_decode_cfgWrite :
    decode (.command { zeroCommand 0b0111 with reg := 5, value := 0x55 }) = .ok (.cfgWrite 5 0x55) := by rfl
theorem test_decode_reserved : decode (.command (zeroCommand 0b1000)) = .error (.reservedCommand 8) := by rfl

/-- The error rows of V42-1 to V42-3. -/
theorem test_parse_errors :
    parse [0x08, 1, 2, 3, 4, 5, 6, 7] 0 = .error .lengthExceedsPayload ∧ parse [0x30, 0, 0] 1 = .error .zeroLengthSingleFrame ∧
    parse [0x10, 0, 0, 0, 0x10] 0 = .error .payloadTooShort ∧ parse [0x10, 0, 0, 0, 0, 0] 0 = .error .invalidLength ∧
    parse [0x3F, 0, 0xFF] 0 = .error .invalidFlowStatus ∧ parse [0x31, 0, 0xFF] 0 = .error .invalidStmin ∧
    parse [0x33] 0 = .error .payloadTooShort ∧ parse [0x80] 0 = .error .unsupportedPciType := ⟨rfl, rfl, rfl, rfl, rfl, rfl, rfl, rfl⟩

/-! ### Words of the opcode table -/

theorem test_table_wire :
    (decodeTableWord 8 0x0F = some (.sf (List.replicate 15 0))) ∧
    decodeTableWord 16 0x0003 = some (.sfEsc [0, 0, 0]) ∧
    decodeTableWord 16 0x1014 = some (.ff 20 (List.replicate 62 0)) ∧
    decodeTableWord 48 0x100001020304 = some (.ffEsc 16909060 (List.replicate 58 0)) ∧
    decodeTableWord 8 0x2A = some (.cf 10 (List.replicate 63 0)) ∧
    decodeTableWord 24 0x300814 = some (.fcCts 8 20000) ∧
    decodeTableWord 24 0x3100F5 = some (.fcWait 0 500) ∧
    decodeTableWord 24 0x32057F = some (.fcOvflw 5 127000) := by decide

theorem test_table_command :
    decodeTableWord 4 0x0 = some (.reset ⟨.normal11Bit, 0, 0, none, false⟩ ⟨0, 0, 0, none, none, none⟩) ∧
    decodeTableWord 4 0x1 = some (.send [0]) ∧ decodeTableWord 4 0x2 = some .receive ∧
    decodeTableWord 8 0x3 = some (.setFdMode false) ∧ decodeTableWord 8 0x4 = some (.process 0 none) ∧
    decodeTableWord 8 0x5 = some (.processRx 0 none) ∧ decodeTableWord 8 0x6 = some (.processTx 0) ∧
    decodeTableWord 8 0x7 = some (.cfgWrite 0 0) ∧ decodeTableWord 4 0xF = none := by decide

/-- A frame kind's word runs as the receive phase of a frame for this side. -/
theorem test_fetch_wire :
    (afterStep (State.reset.withFetchWord 16 0x1014)).map (fun t => (t.inbound.length, t.rxState)) = some (1, .idle) ∧
    (afterStep (State.reset.withFetchWord 24 0x300814)).map (fun t => t.lastFlowControlFrame) =
      some (some ⟨.continueToSend, 8, 20000⟩) ∧
    (afterStep (State.reset.withFetchWord 8 0x21)).map (fun t => t.events) = some [.unexpectedConsecutiveFrame] := by decide

/-- With an address prefix the word stands behind it. -/
theorem test_fetch_wire_prefix :
    (afterStep (extState.withFetchWord 16 0x0003)).map (fun t => t.inbound) = some [[0, 0, 0]] := by decide

theorem test_fetch_command :
    (afterStep (State.reset.withFetchWord 8 0x1)).map (fun t => (t.outbound, t.program)) = some ([[0]], []) := by decide

/-- With no operation pending the state is held (R358). -/
theorem test_step_no_operation : afterStep awaiting = some awaiting := by decide

/-! ### Single steps, with the results of the spec's vectors -/

/-- V43-1. -/
theorem test_sf_delivers :
    (after (.sf [0x22, 0xF0, 0xFA]) State.reset).map (fun t => (t.inbound, t.events)) = some ([[0x22, 0xF0, 0xFA]], []) := by
  decide

/-- V43-19. -/
theorem test_sf_interrupts :
    (after (.sf [0x22, 0xF0, 0xFA]) (receiving 0)).map (fun t => (t.inbound, t.events, t.rxBuffer, t.timerRxCF)) =
      some ([[0x22, 0xF0, 0xFA]], [.receptionInterruptedBySingleFrame], [], ⟨false, 0, 0⟩) := by decide

/-- V43-2: an FD frame of 12 bytes in classic mode, its padding dropped. -/
theorem test_sfEsc_in_classic_mode :
    (after (.processRx 0 (some ⟨0x702, [0, 8, 0, 1, 2, 3, 4, 5, 6, 7, 0xCC, 0xCC], true⟩)) State.reset).map
      (fun t => t.inbound) = some [[0, 1, 2, 3, 4, 5, 6, 7]] := by decide

/-- V43-20: no flow-control frame goes out after the interruption. -/
theorem test_sfEsc_clears_pending :
    (after (.sfEsc [0x22, 0xF0, 0xFA]) { receiving 0 with pendingFlowControlTx := true, timerRxCF := ⟨false, 0, 0⟩ }).map
      (fun t => (t.pendingFlowControlTx, t.events)) = some (false, [.receptionInterruptedBySingleFrame]) := by decide

/-- V43-3. -/
theorem test_ff_starts :
    (after (.ff 20 [0, 1, 2, 3, 4, 5]) State.reset).map
      (fun t => (t.rxState, t.rxBuffer, t.rxFrameLen, t.rxSeqNum, t.pendingFlowControlTx, t.timerRxCF.running)) =
      some (.waitCF, [0, 1, 2, 3, 4, 5], 20, 1, true, false) := by decide

/-- V43-4 and V43-5. -/
theorem test_ff_completes :
    (after (.ff 6 [0xAA, 0xBB, 0xCC, 0xDD, 0xEE, 0xFF]) State.reset).map (fun t => (t.inbound, t.rxState)) =
      some ([[0xAA, 0xBB, 0xCC, 0xDD, 0xEE, 0xFF]], .idle) ∧
    (after (.ff 3 [0xAA, 0xBB, 0xCC, 0xDD, 0xEE, 0xFF]) State.reset).map (fun t => (t.inbound, t.pendingFlowControlTx)) =
      some ([[0xAA, 0xBB, 0xCC]], false) := by decide

/-- R236 on the 32-bit form: a length no 12-bit field holds. -/
theorem test_ffEsc_starts :
    (after (.ffEsc 4096 [0, 1]) State.reset).map (fun t => (t.rxFrameLen, t.rxBuffer, t.rxState)) =
      some (4096, [0, 1], .waitCF) := by decide

/-- P8 at t=600. -/
theorem test_ffEsc_interrupts :
    (after (.ffEsc 10 [0xA0, 0xA1]) (receiving 0)).map (fun t => (t.rxFrameLen, t.rxBuffer, t.events)) =
      some (10, [0xA0, 0xA1], [.receptionInterruptedByFirstFrame]) := by decide

/-- V43-8. -/
theorem test_cf_accepted :
    (after (.cf 1 [6, 7, 8, 9, 10, 11, 12]) { receiving 0 with clock := 1000 }).map
      (fun t => (t.rxBuffer.length, t.rxSeqNum, t.rxBlockCounter, t.timerRxCF)) = some (13, 2, 1, ⟨true, 1000, 1000000⟩) := by
  decide

/-- V43-21: the block used up; V43-22: completion comes before the block test. -/
theorem test_cf_block :
    (after (.cf 1 [6, 7]) (receiving 1)).map (fun t => (t.rxBlockCounter, t.pendingFlowControlTx, t.timerRxCF, t.rxSeqNum)) =
      some (0, true, ⟨false, 0, 0⟩, 2) ∧
    (after (.cf 1 (List.replicate 15 7)) (receiving 1)).map (fun t => (t.inbound, t.pendingFlowControlTx)) =
      some ([[0, 1, 2, 3, 4, 5] ++ List.replicate 14 7], false) := by decide

/-- V43-17, and V44-6 in the transmit phase. -/
theorem test_fcCts_arms_cf_timer :
    (after (.fcCts 0 0) { receiving 0 with clock := 1500 }).map (fun t => (t.lastFlowControlFrame, t.timerRxCF)) =
      some (some ⟨.continueToSend, 0, 0⟩, ⟨true, 1500, 1000000⟩) := by decide

theorem test_fcCts_grants :
    (after (.process 2000 (some (frame [0x30, 1, 0x7F]))) awaiting).map
      (fun t => (t.txFrame, t.txState, t.remoteBlocksize, t.remoteStminUs, t.timerRxFC, t.timerTxStmin)) =
      some (some ⟨0x701, [0x21, 6, 7, 8, 9, 10, 11, 12], false⟩, .waitFC, 1, 127000, ⟨true, 2000, 1000000⟩,
        ⟨true, 2000, 127000⟩) := by decide

/-- V44-8 and V44-9. -/
theorem test_fcWait_counts :
    (after (.process 2000 (some (frame [0x31, 0, 0]))) awaiting).map (fun t => (t.wftCounter, t.timerRxFC, t.txFrame)) =
      some (1, ⟨true, 2000, 1000000⟩, none) ∧
    (after (.process 2000 (some (frame [0x31, 0, 0]))) { awaiting with C.wftMax := 0 }).map
      (fun t => (t.txState, t.events, t.wftCounter)) = some (.idle, [.maxWaitFramesExceeded 1], 0) := by decide

/-- V44-15: the warning does not stop step 4. -/
theorem test_fcWait_unexpected :
    (after (.process 0 (some (frame [0x31, 0, 0]))) { State.reset with outbound := [[0x3E, 0]] }).map
      (fun t => (t.txFrame, t.events)) = some (some ⟨0x701, [2, 0x3E, 0], false⟩, [.unexpectedFlowControl .wait]) := by decide

/-- V43-18. -/
theorem test_fcOvflw_leaves_cf_timer :
    (after (.fcOvflw 0 0) { receiving 0 with clock := 1500 }).map (fun t => (t.lastFlowControlFrame, t.timerRxCF)) =
      some (some ⟨.overflow, 0, 0⟩, ⟨true, 0, 1000000⟩) := by decide

/-- V44-10. -/
theorem test_fcOvflw_aborts :
    (after (.process 2000 (some (frame [0x32, 0, 0]))) awaiting).map (fun t => (t.txState, t.txBuffer, t.events)) =
      some (.idle, [], [.overflowError]) := by decide

/-- V45-3 on a Transport that is in use (V45-5). -/
theorem test_reset_discards :
    (after (.reset exampleAddress ⟨8, 20, 5, some 150, some 75, some 0xAA⟩) awaiting).map
      (fun t => (t.txState, t.txBuffer, t.C.cfTimeoutMs, t.C.fcTimeoutMs, t.C.padByte, t.reply)) =
      some (.idle, [], 150, 75, 0xAA, .ok) := by decide

/-- V41-14 to V41-18: the construction check. -/
theorem test_reset_errors :
    checkAddress ⟨.normal11Bit, 0x700, 0x700, none, false⟩ = .error .idCollision ∧
    checkAddress ⟨.normal11Bit, 0x800, 0x702, none, false⟩ = .error .idOutOfRange ∧
    checkAddress ⟨.normal29Bit, 0x20000000, 1, none, false⟩ = .error .idOutOfRange ∧
    checkAddress ⟨.extended, 0x701, 0x702, none, false⟩ = .error .missingExtension ∧
    checkAddress ⟨.extended, 0x800, 0x800, none, false⟩ = .error .idOutOfRange := ⟨rfl, rfl, rfl, rfl, rfl⟩

/-- V45-7 and V45-6. -/
theorem test_send_queues :
    (after (.send [0x3E, 0]) { State.reset with outbound := [[0x22]] }).map (fun t => t.outbound) = some [[0x22], [0x3E, 0]] ∧
    refusal (.send []) State.reset = some .sendLength := by decide

/-- V45-8. -/
theorem test_receive_order :
    (after .receive { State.reset with inbound := [[0x3E, 0], [0x7E, 0]] }).map (fun t => (t.reply, t.inbound)) =
      some (.message (some [0x3E, 0]), [[0x7E, 0]]) ∧
    (after .receive State.reset).map (fun t => t.reply) = some (.message none) := by decide

/-- V45-9. -/
theorem test_setFdMode :
    (after (.setFdMode true) State.reset).map (fun t => t.C.maxDataLength) = some 64 ∧
    (after (.setFdMode false) extState).map (fun t => t.C.maxDataLength) = some 8 := by decide

/-- V43-15: the timeout is checked before the frame is dispatched. -/
theorem test_processRx_timeout_then_frame :
    (after (.processRx 1000000 (some (frame [0x21, 6, 7]))) (receiving 0)).map (fun t => (t.events, t.inbound)) =
      some ([.timeoutCF, .unexpectedConsecutiveFrame], []) := by decide

/-- V43-16 and V43-24. -/
theorem test_processRx_no_frame :
    (after (.processRx 1000000 (some (frame [0x40, 0]))) (receiving 0)).map (fun t => t.events) =
      some [.frameParseError .unsupportedPciType, .timeoutCF] ∧
    (after (.processRx 0 (some ⟨0x123, [3, 1, 2, 3], false⟩)) State.reset).map (fun t => (t.events, t.inbound)) =
      some ([], []) := by decide

/-- V44-16: the pacing timer's boundary. -/
theorem test_processTx_pacing :
    (after (.processTx 5999) (pacing 0)).map (fun t => t.txFrame) = some none ∧
    (after (.processTx 6000) (pacing 0)).map (fun t => t.txFrame) =
      some (some ⟨0x701, [0x22, 13, 14, 15, 16, 17, 18, 19], false⟩) := by decide

/-- V44-4: 62 bytes in FD mode behind a prefix start a multi-frame send; 61 fit. -/
theorem test_processTx_capacity :
    (after (.processTx 0) { extState with outbound := [List.replicate 62 9] }).map (fun t => (t.txState, t.txBuffer)) =
      some (.waitFC, [9]) ∧
    (after (.processTx 0) { extState with outbound := [List.replicate 61 9] }).map
      (fun t => (t.txState, t.txFrame.map (fun f => f.data.take 3))) = some (.idle, some [0x55, 0, 61]) := by decide

/-- P7 at t=0: 13 bytes padded to 16; P9 at t=1000000: the timeout and the next message in one call. -/
theorem test_process_emits :
    (after (.process 0 none) { extState with outbound := [[1, 2, 3, 4, 5, 6, 7, 8, 9, 10]] }).map (fun t => t.txFrame) =
      some (some ⟨0x18DA00F1, [0x55, 0, 10, 1, 2, 3, 4, 5, 6, 7, 8, 9, 10, 0xCC, 0xCC, 0xCC], true⟩) ∧
    (after (.process 1000000 none) { awaiting with outbound := [[8, 9, 10, 11, 12, 13, 14, 15]] }).map
      (fun t => (t.txFrame, t.events, t.txBuffer)) =
      some (some ⟨0x701, [0x10, 8, 8, 9, 10, 11, 12, 13], false⟩, [.timeoutFC], [14, 15]) := by decide

/-- V45-13 and V45-14. -/
theorem test_process_refused :
    refusal (.process 5 none) { State.reset with clock := 6 } = some .clockWentBack ∧
    refusal (.process 0 (some (frame [0, 1, 2, 3, 4, 5, 6, 7, 8]))) State.reset = some .illFormedFrame := by decide

/-- R308. -/
theorem test_cfgWrite :
    (after (.cfgWrite 5 0x55) State.reset).map (fun t => (t.C.padByte, t.C.blocksize)) = some (0x55, 8) ∧
    (after (.cfgWrite 4 7) State.reset).map (fun t => (t.C.fcTimeoutMs, t.C.cfTimeoutMs)) = some (7, 1000) ∧
    refusal (.cfgWrite 7 0) State.reset = some .cfgWriteIllegal := by decide

/-- V45-1. -/
theorem test_no_transport :
    refusal (.send [1]) State.unconstructed = some .noTransport ∧ refusal .receive State.unconstructed = some .noTransport ∧
    refusal (.process 0 none) State.unconstructed = some .noTransport ∧
    refusal (.setFdMode true) State.unconstructed = some .noTransport ∧
    refusal (.cfgWrite 0 1) State.unconstructed = some .noTransport ∧
    refusal (.fcCts 0 0) State.unconstructed = some .noTransport := by decide

/-! ### Witnesses: for every statement with hypotheses, a state and operands that meet them, clause by clause -/

/-- Each instruction has a well-formed form with its operands at an end of their range. -/
theorem witness_wellFormedInstructionsRoundTrip :
    (Instr.sf (List.replicate 15 0)).wf = true ∧ (Instr.sfEsc (List.replicate 62 0)).wf = true ∧
    (Instr.ff 4095 (List.replicate 62 0)).wf = true ∧ (Instr.ffEsc (2 ^ 32 - 1) (List.replicate 58 0)).wf = true ∧
    (Instr.cf 15 (List.replicate 63 0)).wf = true ∧ (Instr.fcCts 255 127000).wf = true ∧
    (Instr.fcWait 0 900).wf = true ∧ (Instr.fcOvflw 0 100).wf = true ∧
    (Instr.reset exampleAddress ⟨255, 127, 0, none, none, some 255⟩).wf = true ∧ (Instr.send [0]).wf = true ∧
    Instr.receive.wf = true ∧ (Instr.setFdMode false).wf = true ∧
    (Instr.process 0 (some (frame (List.replicate 8 0)))).wf = true ∧
    (Instr.processRx 0 (some ⟨2 ^ 29 - 1, List.replicate 64 0, true⟩)).wf = true ∧ (Instr.processTx 0).wf = true ∧
    (Instr.cfgWrite 5 255).wf = true := by decide

theorem witness_classification_noPci : ([0x55] : Bytes).length ≤ 1 ∧ ([] : Bytes).length ≤ 0 := by decide
theorem witness_classification_type : 0x40 ≤ (0x40 : Byte).toNat ∧ 0x40 ≤ (0xFF : Byte).toNat := by decide

theorem witness_singleFrameParse_short :
    1 ≤ 1 ∧ 15 ≤ 15 ∧ ([] : Bytes).length < 1 ∧ 1 ≤ ([0] : Bytes).length ∧ 15 ≤ (List.replicate 15 (0 : Byte)).length := by decide
theorem witness_singleFrameParse_escape :
    1 ≤ 255 ∧ 255 ≤ 255 ∧ (List.replicate 254 (0 : Byte)).length < 255 ∧ 1 ≤ ([0] : Bytes).length := by
  simp only [List.length_replicate]; decide

theorem witness_firstFrameParse_short :
    0 ≤ 15 ∧ 15 ≤ 15 ∧ 256 * 0 + (1 : Byte).toNat ≠ 0 ∧ 256 * 15 + (0xFF : Byte).toNat ≠ 0 ∧ 256 * 1 + (0 : Byte).toNat ≠ 0 := by
  decide
theorem witness_firstFrameParse_tooShort : ([0, 0, 0] : Bytes).length < 4 := by decide
theorem witness_firstFrameParse_escape :
    16777216 * (0 : Byte).toNat + 65536 * (0 : Byte).toNat + 256 * (0 : Byte).toNat + (0 : Byte).toNat = 0 ∧
    16777216 * (0 : Byte).toNat + 65536 * (0 : Byte).toNat + 256 * (0 : Byte).toNat + (1 : Byte).toNat ≠ 0 := by decide

theorem witness_flowControlParse_tooShort : 15 ≤ 15 ∧ ([0] : Bytes).length < 2 := by decide
theorem witness_flowControlParse_status : 3 ≤ 3 ∧ 3 ≤ 15 ∧ 15 ≤ 15 := by decide
theorem witness_flowControlParse_stmin :
    (2 = 0 ∧ FlowStatus.overflow = .continueToSend ∨ 2 = 1 ∧ FlowStatus.overflow = .wait ∨ 2 = 2 ∧ FlowStatus.overflow = .overflow) ∧
    (0x7F : Byte).toNat ≤ 0x7F ∧ (0xF1 ≤ (0xF1 : Byte).toNat ∧ (0xF1 : Byte).toNat ≤ 0xF9) ∧
    (0xF1 ≤ (0xF9 : Byte).toNat ∧ (0xF9 : Byte).toNat ≤ 0xF9) ∧
    (0x80 ≤ (0x80 : Byte).toNat ∧ (0x80 : Byte).toNat ≤ 0xF0) ∧ (0x80 ≤ (0xF0 : Byte).toNat ∧ (0xF0 : Byte).toNat ≤ 0xF0) ∧
    0xFA ≤ (0xFA : Byte).toNat ∧ 0xFA ≤ (0xFF : Byte).toNat := by decide

theorem witness_decodedFirstFrameBounds :
    parse [0x10, 0, 0xFF, 0xFF, 0xFF, 0xFF, 1] 0 = .ok (.first 4294967295 [1]) ∧
    parse [0x1F, 0xFF] 0 = .ok (.first 4095 []) ∧ pciLength [0x1F, 0xFF] 0 = 2 := ⟨rfl, rfl, rfl⟩

theorem witness_serializedBytes :
    (1 ≤ (List.replicate 7 (0 : Byte)).length ∧ (List.replicate 7 (0 : Byte)).length ≤ 7) ∧
    (8 ≤ (List.replicate 8 (0 : Byte)).length ∧ (List.replicate 255 (0 : Byte)).length ≤ 255) ∧
    (1 ≤ 4095 ∧ 4095 ≤ 4095) ∧ (4096 ≤ 4096 ∧ 4096 ≤ 2 ^ 32 - 1) ∧ 127 ≤ 127 ∧ (1 ≤ 9 ∧ 9 ≤ 9) := by
  simp only [List.length_replicate]; decide

/-- Both configurations the tests use are ones the host can make. -/
theorem config_reset : ConfigInv State.reset.C := ⟨.inl rfl, rfl⟩
theorem config_ext : ConfigInv extState.C := ⟨.inr rfl, rfl⟩

theorem witness_encodeRaw_fits :
    ConfigInv extState.C ∧ serialize (.consecutive 1 (List.replicate 62 0)) = some (0x21 :: List.replicate 62 0) ∧
    (txPayloadPrefix extState.C.addr ++ (0x21 :: List.replicate 62 0)).length ≤ extState.C.maxDataLength :=
  ⟨config_ext, rfl, by decide⟩
theorem witness_encodeRaw_tooLong :
    ConfigInv State.reset.C ∧ serialize (.consecutive 1 (List.replicate 8 0)) = some (0x21 :: List.replicate 8 0) ∧
    State.reset.C.maxDataLength < (txPayloadPrefix State.reset.C.addr ++ (0x21 :: List.replicate 8 0)).length :=
  ⟨config_reset, rfl, by decide⟩

theorem witness_emittedFrameParsesBack :
    (∃ r, encodeRaw extState.C (.single [1, 2, 3, 4, 5, 6, 7, 8]) = .ok r) ∧
    (∃ r, encodeRaw extState.C (.flowControl ⟨.continueToSend, 8, 20000⟩) = .ok r) ∧
    (∃ r, encodeRaw State.reset.C (.first 20 [0, 1, 2, 3, 4, 5]) = .ok r ∧
      serialize (.first 20 [0, 1, 2, 3, 4, 5]) = some (r.data.drop (txPayloadPrefix State.reset.C.addr).length)) ∧
    (∃ r, encodeRaw extState.C (.consecutive 15 (List.replicate 8 1)) = .ok r) :=
  ⟨⟨_, rfl⟩, ⟨_, rfl⟩, ⟨_, rfl, rfl⟩, ⟨_, rfl⟩⟩
theorem witness_emittedFrameIsForThePeer :
    ConfigInv extState.C ∧ (∃ r, encodeRaw extState.C (.single [1, 2, 3, 4, 5, 6, 7, 8]) = .ok r) ∧
    Mirrors extState.C.addr extPeer := ⟨config_ext, ⟨_, rfl⟩, rfl, rfl, rfl, rfl, rfl⟩

theorem witness_timer : expired ⟨true, 5000, 1000000⟩ 1005000 = true ∧ 1005000 ≤ 9000000 := by decide

theorem witness_addressingFunctions :
    checkAddress extAddress = .ok extAddress ∧
    checkAddress { extAddress with mode := .mixed } = .ok { extAddress with mode := .mixed } ∧
    checkAddress exampleAddress = .ok exampleAddress ∧
    checkAddress { exampleAddress with mode := .normal29Bit } = .ok { exampleAddress with mode := .normal29Bit } ∧
    checkAddress { exampleAddress with mode := .normalFixed } = .ok { exampleAddress with mode := .normalFixed } :=
  ⟨rfl, rfl, rfl, rfl, rfl⟩

/-- The four clauses at the ends of their ranges, with V41-15, V41-14, V41-17 and V41-19; and an address that fails. -/
theorem witness_constructionCheckOrder :
    (2 ^ 11 ≤ 0x800 ∨ 2 ^ 11 ≤ 0x702) ∧ ¬(2 ^ 11 ≤ 0x7FF ∨ 2 ^ 11 ≤ 0x000) ∧ ¬(2 ^ 11 ≤ 0x700 ∨ 2 ^ 11 ≤ 0x700) ∧
    (AddrMode.extended = .extended ∨ AddrMode.extended = .mixed) ∧
    checkAddress ⟨.normal11Bit, 0x700, 0x700, none, false⟩ = .error .idCollision :=
  ⟨by decide, by decide, by decide, .inl rfl, rfl⟩

theorem witness_singleFrameIsDelivered : State.reset.live = true ∧ (receiving 0).live = true := ⟨rfl, rfl⟩
theorem witness_firstFrame_completes : State.reset.live = true ∧ 6 ≤ ([0, 1, 2, 3, 4, 5] : Bytes).length := by decide
theorem witness_firstFrame_starts : (receiving 0).live = true ∧ ([0, 1, 2, 3, 4] : Bytes).length < 6 := by decide
theorem witness_consecutiveFrameViolations_idle : State.reset.live = true ∧ State.reset.rxState = .idle := by decide
theorem witness_consecutiveFrameViolations_number :
    (receiving 0).live = true ∧ (receiving 0).rxState = .waitCF ∧ (2 : BitVec 4) ≠ (receiving 0).rxSeqNum := by decide
theorem witness_consecutiveFrameAccepted_complete :
    (receiving 2).live = true ∧ (receiving 2).rxState = .waitCF ∧
    (receiving 2).rxFrameLen ≤ (receiving 2).rxBuffer.length + (List.replicate 14 (0 : Byte)).length := by decide
theorem witness_consecutiveFrameAccepted_full :
    ¬ (receiving 1).rxFrameLen ≤ (receiving 1).rxBuffer.length + (List.replicate 13 (0 : Byte)).length ∧
    (receiving 1).C.blocksize.toNat ≠ 0 ∧ (receiving 1).C.blocksize.toNat ≤ (receiving 1).rxBlockCounter + 1 := by decide
theorem witness_consecutiveFrameAccepted_midBlock :
    ¬ (receiving 2).rxFrameLen ≤ (receiving 2).rxBuffer.length + (List.replicate 13 (0 : Byte)).length ∧
    ¬((receiving 2).C.blocksize.toNat ≠ 0 ∧ (receiving 2).C.blocksize.toNat ≤ (receiving 2).rxBlockCounter + 1) ∧
    ¬((receiving 0).C.blocksize.toNat ≠ 0 ∧ (receiving 0).C.blocksize.toNat ≤ (receiving 0).rxBlockCounter + 1) := by decide
theorem witness_flowControlFrameIntoMailbox :
    (awaiting.live = true ∧ awaiting.rxState = .idle) ∧ (receiving 0).live = true ∧ (receiving 0).rxState = .waitCF := by decide

/-- The two outcomes of the timeout check, one microsecond apart (V43-13, V43-14). -/
theorem cfTimeout_before : AfterCfTimeout 999999 (receiving 0) (atOp 999999 (receiving 0)) :=
  ⟨fun h => absurd h.2.2 (by decide), fun _ => rfl⟩
theorem cfTimeout_at :
    AfterCfTimeout 1000000 (receiving 0) { rxReset (atOp 1000000 (receiving 0)) with events := [.timeoutCF] } :=
  ⟨fun _ => rfl, fun h => absurd ⟨rfl, rfl, by decide⟩ h⟩

theorem witness_receivedFrameRunsItsInstruction :
    canProcess 999999 (some (frame [0x21, 6])) (receiving 0) ∧ canProcess 1000000 (some (frame [0x21, 6])) (receiving 0) ∧
    isForMe (receiving 0).C.addr (frame [0x21, 6]) = true ∧
    decodeWire (frame [0x21, 6]).data (rxPrefixSize (receiving 0).C.addr) = .ok (.cf 1 [6]) ∧
    (∃ t, AfterCfTimeout 999999 (receiving 0) t) ∧ (∃ t, AfterCfTimeout 1000000 (receiving 0) t) :=
  ⟨⟨rfl, rfl, by decide⟩, ⟨rfl, rfl, by decide⟩, rfl, rfl, ⟨_, cfTimeout_before⟩, ⟨_, cfTimeout_at⟩⟩
theorem witness_receivePhaseWithoutUsableFrame :
    canProcess 1000000 none (receiving 0) ∧
    (canProcess 1000000 (some ⟨0x123, [3], false⟩) (receiving 0) ∧
      isForMe (receiving 0).C.addr ⟨0x123, [3], false⟩ = false) ∧
    canProcess 1000000 (some (frame [])) (receiving 0) ∧ isForMe (receiving 0).C.addr (frame []) = true ∧
    parse (frame []).data (rxPrefixSize (receiving 0).C.addr) = .error .payloadTooShort ∧
    ∃ t, AfterCfTimeout 1000000 (receiving 0) t :=
  ⟨⟨rfl, rfl, by decide⟩, ⟨⟨rfl, rfl, by decide⟩, rfl⟩, ⟨rfl, rfl, by decide⟩, rfl, rfl, _, cfTimeout_at⟩

/-- Calls of the receive phase that answer a next state: with no frame, with one that is taken, with one that is not. -/
theorem witness_receivePhase :
    (∃ t, exec (.processRx 7 none) awaiting = .next t) ∧
    (∃ t, exec (.processRx 7 (some (frame [0x10, 20, 0, 1, 2, 3, 4, 5]))) State.reset = .next t ∧ t.rxState = .waitCF) ∧
    ∃ t, exec (.processRx 7 (some (frame [0x22]))) (receiving 0) = .next t ∧ t.rxState = .idle :=
  ⟨⟨_, rfl⟩, ⟨_, rfl, rfl⟩, _, rfl, rfl⟩
theorem witness_receivePhaseLeavesTransmitSide : ∃ t, exec (.processRx 7 (some (frame [0x30, 0, 0]))) awaiting = .next t := ⟨_, rfl⟩
theorem witness_receivePhaseIgnoresCapacity :
    ∃ t, exec (.processRx 7 (some ⟨0x702, 0 :: 9 :: List.replicate 9 1, true⟩)) State.reset = .next t ∧ t.inbound ≠ [] :=
  ⟨_, rfl, by decide⟩

/-- A state with the invariant in which both machines are at work. -/
def busy : State :=
  { receiving 2 with
    txState := .transmit, txBuffer := [13, 14, 15, 16, 17, 18, 19, 20], txFrameLen := 21, txSeqNum := 2, txBlockCounter := 1
    remoteBlocksize := 2, remoteStminUs := 5000, timerTxStmin := ⟨true, 1000, 5000⟩
    lastFlowControlFrame := some ⟨.wait, 0, 0⟩, outbound := [[0x3E, 0]] }

theorem inv_busy : Inv busy where
  config := ⟨.inl rfl, rfl⟩
  rx := ⟨fun h => absurd h (by decide), fun _ => by decide, fun _ => .inr rfl, fun h => absurd h (by decide), by decide⟩
  tx := ⟨fun h => absurd h (by decide), fun _ => ⟨by decide, by decide⟩, fun _ => rfl, fun h => absurd h (by decide),
    by decide, by decide⟩
  queues := ⟨fun _ h => absurd h List.not_mem_nil, by decide, fun fc h => by cases h; rfl⟩

/-- A sender with a message of three frames, and its peer: both idle. -/
def sender : State := { extState with outbound := [List.replicate 130 7] }
def peer : State := { State.reset with C.addr := extPeer, C.cfTimeoutMs := 5, C.stminMs := 4 }

theorem inv_sender : Inv sender where
  config := ⟨.inr rfl, rfl⟩
  rx := ⟨fun _ => ⟨rfl, rfl, rfl, rfl, rfl, rfl⟩, fun h => absurd h (by decide), fun h => absurd h (by decide),
    fun h => absurd h (by decide), by decide⟩
  tx := ⟨fun _ => ⟨rfl, rfl, rfl, rfl, rfl, rfl, rfl, rfl, rfl⟩, fun h => absurd rfl h, fun h => absurd h (by decide),
    fun h => absurd h (by decide), by decide, by decide⟩
  queues := ⟨fun _ h => absurd h List.not_mem_nil, by simp [sender, Config.msgLenMax], fun _ h => by cases h⟩

theorem inv_peer : Inv peer where
  config := ⟨.inl rfl, rfl⟩
  rx := ⟨fun _ => ⟨rfl, rfl, rfl, rfl, rfl, rfl⟩, fun h => absurd h (by decide), fun h => absurd h (by decide),
    fun h => absurd h (by decide), by decide⟩
  tx := ⟨fun _ => ⟨rfl, rfl, rfl, rfl, rfl, rfl, rfl, rfl, rfl⟩, fun h => absurd rfl h, fun h => absurd h (by decide),
    fun h => absurd h (by decide), by decide, by decide⟩
  queues := ⟨fun _ h => absurd h List.not_mem_nil, fun _ h => absurd h List.not_mem_nil, fun _ h => by cases h⟩

theorem witness_deliveryIsWhole :
    Inv busy ∧ (∃ t, exec (.processRx 9 (some (frame [3, 1, 2, 3]))) busy = .next t ∧ t.inbound ≠ busy.inbound) ∧
    ∃ t, exec (.processRx 9 (some ⟨0x702, 0x21 :: List.replicate 14 9, true⟩)) busy = .next t ∧ t.inbound ≠ busy.inbound :=
  ⟨inv_busy, ⟨_, rfl, by decide⟩, _, rfl, by decide⟩

theorem witness_pendingFlowControlPreempts :
    let s := { busy with pendingFlowControlTx := true }
    canProcess 6000 none s ∧ ConfigInv s.C ∧ s.pendingFlowControlTx = true :=
  ⟨⟨rfl, rfl, by decide⟩, ⟨.inl rfl, rfl⟩, rfl⟩

/-- Steps 2 to 4 of the transmit phase, clause by clause. -/
theorem witness_grantIsAdopted :
    canProcess 2000 none (told .continueToSend 1 127000) ∧
    finds ⟨.continueToSend, 1, 127000⟩ (told .continueToSend 1 127000) ∧ (told .continueToSend 1 127000).txState ≠ .idle :=
  ⟨⟨rfl, rfl, by decide⟩, ⟨rfl, rfl⟩, by decide⟩
theorem witness_waitIsCounted :
    let s := { told .wait 0 0 with wftCounter := 4 }
    canProcess 2000 none s ∧ finds ⟨.wait, 0, 0⟩ s ∧ s.txState ≠ .idle ∧ s.wftCounter + 1 ≤ s.C.wftMax :=
  ⟨⟨rfl, rfl, by decide⟩, ⟨rfl, rfl⟩, by decide, by decide⟩
theorem witness_waitAborts :
    let s := { told .wait 0 0 with wftCounter := 5 }
    canProcess 2000 none s ∧ finds ⟨.wait, 0, 0⟩ s ∧ s.txState ≠ .idle ∧ s.C.wftMax < s.wftCounter + 1 :=
  ⟨⟨rfl, rfl, by decide⟩, ⟨rfl, rfl⟩, by decide, by decide⟩
theorem witness_overflowAborts :
    canProcess 2000 none (told .overflow 0 0) ∧ finds ⟨.overflow, 0, 0⟩ (told .overflow 0 0) ∧
    (told .overflow 0 0).txState ≠ .idle := ⟨⟨rfl, rfl, by decide⟩, ⟨rfl, rfl⟩, by decide⟩
theorem witness_idleWarns :
    let s := { State.reset with lastFlowControlFrame := some ⟨.overflow, 0, 0⟩ }
    canProcess 0 none s ∧ finds ⟨.overflow, 0, 0⟩ s ∧ s.txState = .idle := ⟨⟨rfl, rfl, by decide⟩, ⟨rfl, rfl⟩, rfl⟩
theorem witness_flowControlTimeoutAborts :
    canProcess 1000000 none awaiting ∧ awaiting.pendingFlowControlTx = false ∧ awaiting.lastFlowControlFrame = none ∧
    deadlinePassed awaiting.timerRxFC 1000000 := ⟨⟨rfl, rfl, by decide⟩, rfl, rfl, rfl, by decide⟩

/-- The reset state and its kind reach step 4 with nothing done. -/
theorem reaches_reset : reachesStepFour 0 State.reset := ⟨rfl, rfl, fun h => absurd h.1 (by decide)⟩
theorem reaches_pacing (bs : Byte) (n : Nat) : reachesStepFour n (pacing bs) := ⟨rfl, rfl, fun h => absurd h.1 Bool.false_ne_true⟩

theorem witness_transmitPhaseHasNothingToSend_idle :
    canProcess 0 none State.reset ∧ reachesStepFour 0 State.reset ∧ State.reset.txState = .idle ∧ State.reset.outbound = [] :=
  ⟨⟨rfl, rfl, by decide⟩, reaches_reset, rfl, rfl⟩
theorem witness_transmitPhaseHasNothingToSend_waiting :
    canProcess 999999 none awaiting ∧ reachesStepFour 999999 awaiting ∧ awaiting.txState = .waitFC :=
  ⟨⟨rfl, rfl, by decide⟩, ⟨rfl, rfl, fun h => absurd h.2 (by decide)⟩, rfl⟩
theorem witness_transmitPhaseHasNothingToSend_pacing :
    canProcess 5999 none (pacing 0) ∧ reachesStepFour 5999 (pacing 0) ∧ (pacing 0).txState = .transmit ∧
    ¬ deadlinePassed (pacing 0).timerTxStmin 5999 :=
  ⟨⟨rfl, rfl, by decide⟩, reaches_pacing 0 5999, rfl, fun h => absurd h.2 (by decide)⟩

/-- 7 bytes in a classic frame: the largest message with no prefix (V44-1). -/
theorem witness_singleFrameSend_classic :
    let m : Bytes := [0, 1, 2, 3, 4, 5, 6]
    let s := { State.reset with outbound := [m, [9]] }
    canProcess 0 none s ∧ ConfigInv s.C ∧ reachesStepFour 0 s ∧ s.txState = .idle ∧ s.outbound = m :: [[9]] ∧ 1 ≤ m.length ∧
    (txPayloadPrefix s.C.addr).length + (if m.length ≤ 7 then 1 else 2) + m.length ≤ s.C.maxDataLength :=
  ⟨⟨rfl, rfl, by decide⟩, config_reset, ⟨rfl, rfl, fun h => absurd h.1 (by decide)⟩, rfl, rfl, by decide, by decide⟩
/-- 61 bytes in an FD frame: the largest message behind a prefix (V44-4). -/
theorem witness_singleFrameSend_fd :
    let m : Bytes := List.replicate 61 9
    let s := { extState with outbound := [m] }
    canProcess 0 none s ∧ ConfigInv s.C ∧ reachesStepFour 0 s ∧ s.txState = .idle ∧ s.outbound = m :: [] ∧ 1 ≤ m.length ∧
    (txPayloadPrefix s.C.addr).length + (if m.length ≤ 7 then 1 else 2) + m.length ≤ s.C.maxDataLength :=
  ⟨⟨rfl, rfl, by decide⟩, config_ext, ⟨rfl, rfl, fun h => absurd h.1 (by decide)⟩, rfl, rfl, by decide, by decide⟩
/-- One byte more, in either mode. -/
theorem witness_multiFrameStart :
    let m : Bytes := List.replicate 62 9
    let s := { extState with outbound := [m] }
    canProcess 0 none s ∧ ConfigInv s.C ∧ reachesStepFour 0 s ∧ s.txState = .idle ∧ s.outbound = m :: [] ∧
    m.length ≤ 2 ^ 32 - 1 ∧
    s.C.maxDataLength < (txPayloadPrefix s.C.addr).length + (if m.length ≤ 7 then 1 else 2) + m.length :=
  ⟨⟨rfl, rfl, by decide⟩, config_ext, ⟨rfl, rfl, fun h => absurd h.1 (by decide)⟩, rfl, rfl, by decide, by decide⟩
/-- 4096 bytes: the least message with the 32-bit length. -/
theorem witness_multiFrameStart_escape :
    let m : Bytes := List.replicate 4096 9
    let s := { State.reset with outbound := [m] }
    canProcess 0 none s ∧ ConfigInv s.C ∧ reachesStepFour 0 s ∧ s.txState = .idle ∧ s.outbound = m :: [] ∧
    m.length ≤ 2 ^ 32 - 1 ∧
    s.C.maxDataLength < (txPayloadPrefix s.C.addr).length + (if m.length ≤ 7 then 1 else 2) + m.length :=
  ⟨⟨rfl, rfl, by decide⟩, config_reset, ⟨rfl, rfl, fun h => absurd h.1 (by decide)⟩, rfl, rfl,
    by simp only [List.length_replicate]; decide, by simp only [List.length_replicate]; decide⟩

theorem witness_consecutiveFrameEmission :
    (canProcess 5999 none (pacing 0) ∧ ConfigInv (pacing 0).C ∧ reachesStepFour 5999 (pacing 0) ∧
      (pacing 0).txState = .transmit ∧ ¬ deadlinePassed (pacing 0).timerTxStmin 5999) ∧
    (canProcess 6000 none (pacing 0) ∧ reachesStepFour 6000 (pacing 0) ∧ deadlinePassed (pacing 0).timerTxStmin 6000) :=
  ⟨⟨⟨rfl, rfl, by decide⟩, ⟨.inl rfl, rfl⟩, reaches_pacing 0 5999, rfl, fun h => absurd h.2 (by decide)⟩,
    ⟨rfl, rfl, by decide⟩, reaches_pacing 0 6000, rfl, by decide⟩
/-- The last frame; the block of 2 used up; a block of 3 and an unlimited one not. `c` is 7 there. -/
theorem witness_consecutiveFrameEmission_cases :
    (pacing 2).C.maxDataLength - (txPayloadPrefix (pacing 2).C.addr).length - 1 = 7 ∧
    { pacing 0 with txBuffer := List.replicate 7 0 }.txBuffer.length ≤ 7 ∧ 7 < (pacing 2).txBuffer.length ∧
    ((pacing 2).remoteBlocksize.toNat ≠ 0 ∧ (pacing 2).remoteBlocksize.toNat ≤ (pacing 2).txBlockCounter + 1) ∧
    ¬((pacing 3).remoteBlocksize.toNat ≠ 0 ∧ (pacing 3).remoteBlocksize.toNat ≤ (pacing 3).txBlockCounter + 1) ∧
    ¬((pacing 0).remoteBlocksize.toNat ≠ 0 ∧ (pacing 0).remoteBlocksize.toNat ≤ (pacing 0).txBlockCounter + 1) := by decide

theorem witness_transmitPhaseLeavesReceiveSide :
    (∃ t, exec (.processTx 6000) busy = .next t ∧ busy.pendingFlowControlTx = false ∧ t.outbound = [[0x3E, 0]]) ∧
    (∃ t, exec (.processTx 6000) { busy with pendingFlowControlTx := true } = .next t ∧ t.txFrame ≠ none) ∧
    ∃ t, exec (.processTx 6000) { State.reset with outbound := [[1], [2]] } = .next t ∧ t.outbound = [[2]] :=
  ⟨⟨_, rfl, rfl, rfl⟩, ⟨_, rfl, by decide⟩, _, rfl, rfl⟩
theorem witness_transmitEnteredOnlyByGrant :
    ∃ t, exec (.processTx 9) (told .continueToSend 0 0) = .next t ∧ t.txState = .transmit ∧
      (told .continueToSend 0 0).txState ≠ .transmit := ⟨_, rfl, rfl, by decide⟩

theorem witness_stepRunsDecodedInstruction :
    let s := { awaiting with program := [{ zeroCommand 5 with now := 9 }, zeroCommand 2] }
    s.program = { zeroCommand 5 with now := 9 } :: [zeroCommand 2] ∧
    decodeCommand { zeroCommand 5 with now := 9 } = .ok (.processRx 9 none) := ⟨rfl, rfl⟩
theorem witness_commandCodes :
    (zeroCommand 0).code = 0 ∧ (zeroCommand 7).code = 7 ∧ 8 ≤ (zeroCommand 8).code.toNat ∧ 8 ≤ (zeroCommand 15).code.toNat ∧
    { awaiting with program := [zeroCommand 15] }.program = zeroCommand 15 :: [] := by decide

theorem witness_resetConstructs :
    let c : CfgArgs := ⟨255, 127, 0, none, some 7, some 255⟩
    checkAddress extAddress = .ok extAddress ∧ c.blocksize ≤ 255 ∧ c.stminMs ≤ 127 ∧ ∀ b, c.padByte = some b → b ≤ 255 :=
  ⟨rfl, by decide, by decide, fun _ h => by cases h; decide⟩
theorem witness_resetFailures :
    checkAddress ⟨.extended, 0x701, 0x702, none, false⟩ = .error .missingExtension ∧
    checkAddress exampleAddress = .ok exampleAddress ∧ 255 < 256 ∧ 127 < 128 ∧
    ∃ b, (⟨0, 0, 0, none, none, some 256⟩ : CfgArgs).padByte = some b ∧ 255 < b :=
  ⟨rfl, rfl, by decide, by decide, 256, rfl, by decide⟩
theorem witness_noTransportRefusesAll : State.unconstructed.live = false ∧ ∀ a c, Instr.receive ≠ .reset a c :=
  ⟨rfl, fun _ _ => by simp⟩

theorem witness_sendEnqueues :
    State.reset.live = true ∧ 1 ≤ ([0] : Bytes).length ∧ ([0] : Bytes).length ≤ 2 ^ 32 - 1 ∧ ([] : Bytes).length = 0 := by decide
theorem witness_sendEnqueues_tooLong : 2 ^ 32 - 1 < (List.replicate (2 ^ 32) (0 : Byte)).length := by
  simp only [List.length_replicate]; decide
theorem witness_receiveDequeues :
    (State.reset.live = true ∧ State.reset.inbound = []) ∧
    { State.reset with inbound := [[1], [2]] }.inbound = [1] :: [[2]] := by decide
theorem witness_setFdMode : awaiting.live = true := rfl
theorem witness_cfgWrite : busy.live = true ∧ 255 ≤ 255 ∧ 127 ≤ 127 ∧ 255 < 256 ∧ 127 < 128 ∧ 6 ≤ 6 ∧ 6 ≤ 7 := by decide

theorem witness_processRefusals :
    let s := { State.reset with clock := 6 }
    s.live = true ∧ 5 < s.clock ∧ 2 ^ 29 ≤ (⟨2 ^ 29, [], false⟩ : RawFrame).id ∧
    64 < (⟨0, List.replicate 65 0, true⟩ : RawFrame).data.length ∧
    ((frame (List.replicate 9 0)).fd = false ∧ 8 < (frame (List.replicate 9 0)).data.length) := by decide
theorem witness_processOperationsComplete :
    Inv busy ∧ canProcess 0 (some (frame (List.replicate 8 0))) busy ∧
    canProcess 0 (some ⟨2 ^ 29 - 1, List.replicate 64 0, true⟩) busy :=
  ⟨inv_busy, ⟨rfl, by decide, by decide⟩, rfl, by decide, by decide⟩
theorem witness_processIsReceiveThenTransmit :
    (∃ t, exec (.processRx 1000000 (some (frame [0x31, 0, 0]))) busy = .next t ∧ t.events = [.timeoutCF]) ∧
    busy.live = true ∧ rawFrameOk (frame (List.replicate 9 0)) = false := ⟨⟨_, rfl, rfl⟩, rfl, by decide⟩
theorem witness_resultsNeverInfluence : (Instr.process 0 none).isWire = false ∧ (Instr.reset exampleAddress exampleCfg).isWire = false := by
  decide

theorem witness_everyStepKeepsInvariant :
    Inv { busy with program := [{ zeroCommand 4 with now := 6000 }] } ∧
    ∃ t, step { busy with program := [{ zeroCommand 4 with now := 6000 }] } = .next t ∧ t.wftCounter = 1 :=
  ⟨⟨inv_busy.config, ⟨inv_busy.rx.1, inv_busy.rx.2, inv_busy.rx.3, inv_busy.rx.4, inv_busy.rx.5⟩,
    ⟨inv_busy.tx.1, inv_busy.tx.2, inv_busy.tx.3, inv_busy.tx.4, inv_busy.tx.5, inv_busy.tx.6⟩,
    ⟨inv_busy.queues.1, inv_busy.queues.2, inv_busy.queues.3⟩⟩, _, rfl, rfl⟩
theorem witness_invariantStatesNeverFault : Inv busy := inv_busy
/-- Counting a Wait up to the bound itself. -/
theorem witness_waitCounterStaysBounded :
    Inv { busy with wftCounter := 4 } ∧ { busy with wftCounter := 4 }.wftCounter ≤ { busy with wftCounter := 4 }.C.wftMax ∧
    (∀ reg v, Instr.processTx 9 ≠ .cfgWrite reg v) ∧
    ∃ t, exec (.processTx 9) { busy with wftCounter := 4 } = .next t ∧ t.wftCounter = t.C.wftMax :=
  ⟨⟨inv_busy.config, ⟨inv_busy.rx.1, inv_busy.rx.2, inv_busy.rx.3, inv_busy.rx.4, inv_busy.rx.5⟩,
    ⟨fun h => absurd h (by decide), inv_busy.tx.2, inv_busy.tx.3, inv_busy.tx.4, inv_busy.tx.5, inv_busy.tx.6⟩,
    ⟨inv_busy.queues.1, inv_busy.queues.2, inv_busy.queues.3⟩⟩, by decide, fun _ _ => by simp, _, rfl, rfl⟩
theorem witness_quiescentProcessChangesNothing : Inv peer ∧ quiescent peer ∧ canProcess 9 none peer :=
  ⟨inv_peer, ⟨rfl, rfl, rfl, rfl, rfl⟩, rfl, rfl, by decide⟩
/-- A reassembly in progress; the second call exactly at the first call plus the timeout. -/
theorem witness_silentReceptionEnds :
    ∃ t u, Inv busy ∧ canProcess 0 none busy ∧ exec (.process 0 none) busy = .next t ∧ t.rxState = .waitCF ∧
      0 + 1000 * busy.C.cfTimeoutMs ≤ 1000000 ∧ busy.timerRxCF.start + busy.timerRxCF.timeout ≤ 1000000 ∧
      exec (.process 1000000 none) t = .next u :=
  ⟨_, _, inv_busy, ⟨rfl, rfl, by decide⟩, rfl, rfl, by decide, by decide, rfl⟩
theorem witness_singleFrameLoopback :
    let m : Bytes := List.replicate 61 9
    let a := { extState with outbound := [m] }
    canProcess 0 none a ∧ ConfigInv a.C ∧ reachesStepFour 0 a ∧ a.txState = .idle ∧ a.outbound = m :: [] ∧ 1 ≤ m.length ∧
    (txPayloadPrefix a.C.addr).length + (if m.length ≤ 7 then 1 else 2) + m.length ≤ a.C.maxDataLength ∧
    peer.live = true ∧ peer.clock ≤ 5 ∧ peer.rxState = .idle ∧ Mirrors a.C.addr peer.C.addr :=
  ⟨⟨rfl, rfl, by decide⟩, config_ext, ⟨rfl, rfl, fun h => absurd h.1 (by decide)⟩, rfl, rfl, by decide, by decide,
    rfl, by decide, rfl, rfl, rfl, rfl, rfl, rfl⟩
/-- Both ends of the interval for the gap: the peer's STmin of 4 ms, and just below its CF timeout of 5 ms. -/
theorem witness_messageLoopback :
    Inv sender ∧ Inv peer ∧ sender.live = true ∧ peer.live = true ∧ sender.clock ≤ 0 ∧ peer.clock ≤ 0 ∧ quiescent peer ∧
    sender.txState = .idle ∧ sender.rxState = .idle ∧ sender.pendingFlowControlTx = false ∧
    sender.lastFlowControlFrame = none ∧ sender.outbound = [List.replicate 130 7] ∧ Mirrors sender.C.addr peer.C.addr ∧
    (1000 * peer.C.stminMs.toNat ≤ 4000 ∧ 4000 < 1000 * peer.C.cfTimeoutMs) ∧
    (1000 * peer.C.stminMs.toNat ≤ 4999 ∧ 4999 < 1000 * peer.C.cfTimeoutMs) :=
  ⟨inv_sender, inv_peer, rfl, rfl, by decide, by decide, ⟨rfl, rfl, rfl, rfl, rfl⟩, rfl, rfl, rfl, rfl, rfl,
    ⟨rfl, rfl, rfl, rfl, rfl⟩, by decide, by decide⟩

end Sys2Proof.Tests
end

section
/-! The start of a step: which operation it takes from the program, and what it runs of it (R7, R80). -/

namespace Sys2Proof.Machine

/-- With an operation pending, the fetch takes it and leaves the ones after it as the program (log entry 1). -/
theorem fetch_of_program_cons {c : Command} {rest : List Command} {s : State} (hprogram : s.program = c :: rest) :
    fetch s = some (c, { s with program := rest }) := by
  simp only [fetch, hprogram]

/-- A fetched operation that decodes is executed at the state the fetch leaves. -/
theorem step_of_fetch_of_decode {c : Command} {i : Instr} {s t : State} (hfetch : fetch s = some (c, t))
    (hdecode : decodeCommand c = .ok i) : step s = exec i t := by
  simp only [step, hfetch, hdecode]

/-- Settles O39: the rule for the fetch, then the rule for a fetched operation that decodes. -/
theorem stepRunsDecodedInstruction : Obligations.StepRunsDecodedInstruction := by
  intro c rest i s hprogram hdecode
  exact step_of_fetch_of_decode (fetch_of_program_cons hprogram) hdecode

end Sys2Proof.Machine
end

section
/-! What an instruction that answers a next state has done, one inversion lemma for each kind: the eight wire instructions as
one (R230 step 4), then the host instructions (`45_host_ops.md`), then a step (R80). -/

namespace Sys2Proof.Machine

/-- An operation on a live Transport that answers a state answers its function of the state with the results emptied. -/
theorem hostOp_next {f : State → State} {s t : State} (h : hostOp f s = .next t) : s.live = true ∧ t = f (beginOp s) := by
  cases hlive : s.live
  · simp [hostOp, hlive] at h
  · rw [hostOp_live hlive] at h
    exact ⟨rfl, (Host.Outcome.next.inj h).symm⟩

theorem wireOp_next {f : State → State} {s t : State} (h : wireOp f s = .next t) : s.live = true ∧ t = f s := by
  cases hlive : s.live
  · simp [wireOp, hlive] at h
  · rw [wireOp_live hlive] at h
    exact ⟨rfl, (Host.Outcome.next.inj h).symm⟩

/-- A wire instruction runs the dispatch of R230 step 4 on a frame of its kind (R7). -/
theorem exec_of_isWire {i : Instr} (hwire : i.isWire = true) (s : State) : ∃ f, exec i s = wireOp (receiveFrame f) s := by
  cases i with
  | sf data => exact ⟨.single data, rfl⟩
  | sfEsc data => exact ⟨.single data, rfl⟩
  | ff totalSize data => exact ⟨.first totalSize data, rfl⟩
  | ffEsc totalSize data => exact ⟨.first totalSize data, rfl⟩
  | cf sn data => exact ⟨.consecutive sn data, rfl⟩
  | fcCts bs u => exact ⟨.flowControl ⟨.continueToSend, bs, u⟩, rfl⟩
  | fcWait bs u => exact ⟨.flowControl ⟨.wait, bs, u⟩, rfl⟩
  | fcOvflw bs u => exact ⟨.flowControl ⟨.overflow, bs, u⟩, rfl⟩
  | _ => exact absurd hwire Bool.false_ne_true

/-- RESET with an address that passes the check and legal values constructs the state of R60 (R301). -/
theorem execReset_of_legal {a : Address} {c : CfgArgs} (haddr : checkAddress a = .ok a) (hcfg : cfgArgsOk c = true) (s : State) :
    execReset a c s = .next { State.constructed (configOf a c) with program := s.program } := by
  simp only [execReset, haddr, if_pos hcfg]

/-- A RESET that answers a state reports the address error (R176) or constructs the state of R60. -/
theorem execReset_next {a : Address} {c : CfgArgs} {s t : State} (h : execReset a c s = .next t) :
    (∃ e, checkAddress a = .error e ∧ t = { beginOp s with live := false, reply := .addrError e }) ∨
    (checkAddress a = .ok a ∧ cfgArgsOk c = true ∧
      t = { State.constructed (configOf a c) with program := s.program }) := by
  cases haddr : checkAddress a with
  | error e =>
    simp only [execReset, haddr, Host.Outcome.next.injEq] at h
    exact .inl ⟨e, rfl, h.symm⟩
  | ok b =>
    obtain ⟨rfl, -⟩ := checkAddress_ok haddr
    cases hcfg : cfgArgsOk c with
    | false => simp [execReset, haddr, hcfg] at h
    | true =>
      rw [execReset_of_legal haddr hcfg, Host.Outcome.next.injEq] at h
      exact .inr ⟨rfl, rfl, h.symm⟩

theorem execSend_next {m : Bytes} {s t : State} (h : execSend m s = .next t) :
    sendLengthOk m = true ∧ t = { beginOp s with outbound := s.outbound ++ [m] } := by
  simp only [execSend] at h
  split at h
  · simp at h
  · rename_i hchecks
    obtain ⟨hlive, ht⟩ := hostOp_next h
    exact ⟨by simpa [hlive] using hchecks, ht⟩

theorem execReceive_next {s t : State} (h : execReceive s = .next t) :
    t = { beginOp s with inbound := (pop s.inbound).2, reply := .message (pop s.inbound).1 } :=
  (hostOp_next h).2

theorem execSetFdMode_next {on : Bool} {s t : State} (h : execSetFdMode on s = .next t) :
    t = { beginOp s with C.maxDataLength := if on then Config.maxDlFd else Config.maxDlClassic } :=
  (hostOp_next h).2

theorem execCfgWrite_next {reg value : Nat} {s t : State} (h : execCfgWrite reg value s = .next t) :
    t = { beginOp s with C := writeRegister reg value s.C } := by
  simp only [execCfgWrite] at h
  split at h
  · simp at h
  · exact (hostOp_next h).2

/-- PROCESS_RX is the receive phase on the state the operation finds (R302). -/
theorem execProcessRx_eq_next_iff {now : Nat} {rx : Option RawFrame} {s t : State} :
    execProcessRx now rx s = .next t ↔ canProcess now rx s ∧ t = processReceive rx (atOp now s) := by
  simp only [execProcessRx]
  cases hb : beginProcess now rx s with
  | error r =>
    refine ⟨fun h => by simp at h, fun ⟨⟨hlive, hframe, hclock⟩, _⟩ => ?_⟩
    rw [beginProcess_ok_iff.2 ⟨hlive, hframe, hclock, rfl⟩] at hb
    simp at hb
  | ok s1 =>
    obtain ⟨hlive, hframe, hclock, rfl⟩ := beginProcess_ok_iff.1 hb
    simp only [Host.Outcome.next.injEq]
    exact ⟨fun h => ⟨⟨hlive, hframe, hclock⟩, h.symm⟩, fun h => h.2.symm⟩

/-- PROCESS is the receive phase, then the transmit phase (R300). -/
theorem execProcess_next {now : Nat} {rx : Option RawFrame} {s t : State} (h : execProcess now rx s = .next t) :
    processTransmit (processReceive rx (atOp now s)) = .ok t := by
  simp only [execProcess] at h
  split at h
  · simp at h
  · rename_i s1 hb
    obtain ⟨-, -, -, rfl⟩ := beginProcess_ok_iff.1 hb
    split at h
    · simp at h
    · rename_i s2 ht
      rw [← Host.Outcome.next.inj h]
      exact ht

/-- PROCESS_TX is the transmit phase (R303). -/
theorem execProcessTx_next {now : Nat} {s t : State} (h : execProcessTx now s = .next t) :
    processTransmit (atOp now s) = .ok t := by
  simp only [execProcessTx] at h
  split at h
  · simp at h
  · rename_i s1 hb
    obtain ⟨-, -, -, rfl⟩ := beginProcess_ok_iff.1 hb
    split at h
    · simp at h
    · rename_i s2 ht
      rw [← Host.Outcome.next.inj h]
      exact ht

/-- The command port carries host instructions only (R135). -/
theorem isWire_of_decodeCommand {c : Command} {i : Instr} (h : decodeCommand c = .ok i) : i.isWire = false := by
  simp only [decodeCommand] at h
  split at h <;> cases h <;> rfl

/-- A step that answers a state holds it, with nothing to run, or runs the host instruction at the head of the program. -/
theorem step_next {s t : State} (h : step s = .next t) :
    (s.program = [] ∧ t = s) ∨
    ∃ c rest i, s.program = c :: rest ∧ i.isWire = false ∧ exec i { s with program := rest } = .next t := by
  cases hprogram : s.program with
  | nil =>
    simp only [step, fetch, hprogram, Host.Outcome.next.injEq] at h
    exact .inl ⟨rfl, h.symm⟩
  | cons c rest =>
    have hfetch := fetch_of_program_cons hprogram
    cases hdecode : decodeCommand c with
    | error e => simp [step, hfetch, hdecode] at h
    | ok i =>
      rw [step_of_fetch_of_decode hfetch hdecode] at h
      exact .inr ⟨c, rest, i, rfl, isWire_of_decodeCommand hdecode, h⟩

end Sys2Proof.Machine
end

section
/-! The invariant of R50: the constructed state has it, every host instruction keeps it, hence every step. -/

namespace Sys2Proof.Machine

/-- The invariant reads no field of the model's own. -/
theorem inv_of_modelFields {s : State} (h : Inv s) (live : Bool) (clock : Nat) (program : List Command)
    (txFrame : Option RawFrame) (events : List Event) (reply : Reply) :
    Inv { s with live, clock, program, txFrame, events, reply } :=
  ⟨h.config, rxInv_ext h.rx rfl rfl rfl rfl rfl rfl rfl, txInv_ext h.tx rfl rfl rfl rfl rfl rfl rfl rfl rfl rfl,
    queueInv_ext h.queues rfl rfl rfl⟩

theorem inv_beginOp {s : State} (h : Inv s) : Inv (beginOp s) := inv_of_modelFields h ..

theorem inv_atOp {s : State} (h : Inv s) (now : Nat) : Inv (atOp now s) := inv_of_modelFields h ..

/-- Only `ConfigInv` reads the configuration. -/
theorem inv_of_config {s : State} (h : Inv s) {C : ConfigRegs} (hC : ConfigInv C) : Inv { s with C } :=
  ⟨hC, rxInv_ext h.rx rfl rfl rfl rfl rfl rfl rfl, txInv_ext h.tx rfl rfl rfl rfl rfl rfl rfl rfl rfl rfl,
    queueInv_ext h.queues rfl rfl rfl⟩

/-- Only `QueueInv` reads the queues. -/
theorem inv_of_queues {s : State} (h : Inv s) {inbound outbound : List Bytes}
    (hin : ∀ m ∈ inbound, m.length ≤ Config.msgLenMax)
    (hout : ∀ m ∈ outbound, 1 ≤ m.length ∧ m.length ≤ Config.msgLenMax) : Inv { s with inbound, outbound } :=
  ⟨h.config, rxInv_ext h.rx rfl rfl rfl rfl rfl rfl rfl, txInv_ext h.tx rfl rfl rfl rfl rfl rfl rfl rfl rfl rfl,
    ⟨hin, hout, h.queues.mailbox⟩⟩

/-- With a legal configuration the constructed state is both sides after their resets, with empty queues and mailbox. -/
theorem inv_constructed {C : ConfigRegs} (hC : ConfigInv C) : Inv (State.constructed C) where
  config := hC
  rx := rxInv_ext (rxInv_rxReset (State.constructed C)) rfl rfl rfl rfl rfl rfl rfl
  tx := txInv_ext (txInv_txReset (State.constructed C)) rfl rfl rfl rfl rfl rfl rfl rfl rfl rfl
  queues := by constructor <;> simp [State.constructed]

theorem configInv_configOf {a : Address} (haddr : checkAddress a = .ok a) (c : CfgArgs) : ConfigInv (configOf a c) :=
  ⟨.inl rfl, haddr⟩

/-- No register that CFG_WRITE may write is the capacity or the address (R308). -/
theorem configInv_writeRegister {C : ConfigRegs} (hC : ConfigInv C) (reg value : Nat) :
    ConfigInv (writeRegister reg value C) := by
  obtain ⟨hlength, haddr⟩ := hC
  simp only [writeRegister]
  split <;> exact ⟨hlength, haddr⟩

/-- RECEIVE leaves messages that were there before. -/
theorem mem_of_mem_pop {q : List Bytes} {m : Bytes} (h : m ∈ (pop q).2) : m ∈ q := by
  cases q with
  | nil => exact h
  | cons _ _ => exact List.mem_cons_of_mem _ h

theorem inv_execReset {a : Address} {c : CfgArgs} {s t : State} (h : Inv s) (ht : execReset a c s = .next t) : Inv t := by
  obtain ⟨e, -, rfl⟩ | ⟨haddr, -, rfl⟩ := execReset_next ht
  · exact inv_of_modelFields h ..
  · exact inv_of_modelFields (inv_constructed (configInv_configOf haddr c)) ..

theorem inv_execSend {m : Bytes} {s t : State} (h : Inv s) (ht : execSend m s = .next t) : Inv t := by
  obtain ⟨hm, rfl⟩ := execSend_next ht
  simp only [sendLengthOk, Bool.and_eq_true, decide_eq_true_eq] at hm
  refine inv_of_queues (inv_beginOp h) h.queues.inbound fun x hx => ?_
  obtain hx | hx := List.mem_append.1 hx
  · exact h.queues.outbound x hx
  · rwa [List.mem_singleton.1 hx]

theorem inv_execReceive {s t : State} (h : Inv s) (ht : execReceive s = .next t) : Inv t := by
  obtain rfl := execReceive_next ht
  exact inv_of_modelFields
    (inv_of_queues h (fun m hm => h.queues.inbound m (mem_of_mem_pop hm)) h.queues.outbound) ..

theorem inv_execSetFdMode {on : Bool} {s t : State} (h : Inv s) (ht : execSetFdMode on s = .next t) : Inv t := by
  obtain rfl := execSetFdMode_next ht
  refine inv_of_config (inv_beginOp h) ⟨?_, h.config.address⟩
  cases on
  · exact .inl rfl
  · exact .inr rfl

theorem inv_execCfgWrite {reg value : Nat} {s t : State} (h : Inv s) (ht : execCfgWrite reg value s = .next t) : Inv t := by
  obtain rfl := execCfgWrite_next ht
  exact inv_of_config (inv_beginOp h) (configInv_writeRegister h.config reg value)

/-- Every host instruction keeps the invariant. A wire instruction does so for the operands `parse` gives it only. -/
theorem inv_exec {i : Instr} {s t : State} (hhost : i.isWire = false) (h : Inv s) (ht : exec i s = .next t) : Inv t := by
  cases i with
  | reset a c => exact inv_execReset h ht
  | send m => exact inv_execSend h ht
  | receive => exact inv_execReceive h ht
  | setFdMode on => exact inv_execSetFdMode h ht
  | process now rx => exact inv_processTransmit (inv_processReceive (inv_atOp h now)) (execProcess_next ht)
  | processRx now rx =>
    obtain ⟨-, rfl⟩ := execProcessRx_eq_next_iff.1 ht
    exact inv_processReceive (inv_atOp h now)
  | processTx now => exact inv_processTransmit (inv_atOp h now) (execProcessTx_next ht)
  | cfgWrite reg value => exact inv_execCfgWrite h ht
  | _ => exact absurd hhost.symm Bool.false_ne_true

/-- Settles O53: a step holds the state or runs a host instruction, and each of those keeps the invariant. -/
theorem everyStepKeepsInvariant : Obligations.EveryStepKeepsInvariant := by
  intro s t h hstep
  obtain ⟨-, rfl⟩ | ⟨c, rest, i, -, hhost, ht⟩ := step_next hstep
  · exact h
  · exact inv_exec hhost (inv_of_modelFields h ..) ht

/-- The reset state is the one the RESET of R301's example constructs (log entry 2). -/
theorem reset_eq_constructed : State.reset = State.constructed (configOf exampleAddress exampleCfg) := rfl

/-- Settles O52: the example address passes the construction check, and a constructed state has the invariant. -/
theorem resetStateHasInvariant : Obligations.ResetStateHasInvariant := by
  unfold Obligations.ResetStateHasInvariant
  rw [reset_eq_constructed]
  exact inv_constructed (configInv_configOf rfl exampleCfg)

end Sys2Proof.Machine
end

section
/-! RESET with legal operands (R60, R301). -/

namespace Sys2Proof.Machine

/-- RESET's range check, spelled out (R301). -/
theorem cfgArgsOk_iff (c : CfgArgs) :
    cfgArgsOk c = true ↔ c.blocksize ≤ 255 ∧ c.stminMs ≤ 127 ∧ ∀ b, c.padByte = some b → b ≤ 255 := by
  cases hpad : c.padByte <;> simp [cfgArgsOk, hpad, and_assoc]

/-- The registers RESET writes from the host's numbers hold those numbers, or the default padding byte. -/
theorem configOf_registers {c : CfgArgs} (hcfg : cfgArgsOk c = true) (a : Address) :
    (configOf a c).blocksize.toNat = c.blocksize ∧ (configOf a c).stminMs.toNat = c.stminMs ∧
    (configOf a c).padByte.toNat = c.padByte.getD 0xCC := by
  obtain ⟨hbs, hst, hpad⟩ := (cfgArgsOk_iff c).1 hcfg
  refine ⟨Nat.mod_eq_of_lt (by omega), Nat.mod_eq_of_lt (by omega), ?_⟩
  cases hb : c.padByte with
  | none => simp [configOf, hb]
  | some b =>
    have := hpad b hb
    simp only [configOf, hb, Option.map_some, Option.getD_some, BitVec.toNat_ofNat]
    omega

/-- Settles O41: the state is `State.constructed` of the given configuration, with the rest of the program. -/
theorem resetConstructs : Obligations.ResetConstructs := by
  intro a c s haddr hbs hst hpad
  have hcfg := (cfgArgsOk_iff c).2 ⟨hbs, hst, hpad⟩
  obtain ⟨ebs, est, epad⟩ := configOf_registers hcfg a
  exact ⟨_, execReset_of_legal haddr hcfg s, rfl, rfl, rfl, rfl, rfl, rfl, rfl, rfl, rfl, rfl, rfl, rfl, rfl, rfl, rfl,
    rfl, rfl, rfl, rfl, rfl, ebs, est, rfl, rfl, rfl, epad, rfl, rfl, rfl, rfl, rfl, rfl, rfl, rfl⟩

end Sys2Proof.Machine
end

section
/-! The receive phase does not read `C.maxDataLength` (R44, R230): each of its operations commutes with a change of it. A branch
is chosen by registers that the change leaves alone, so the change moves into both branches (`apply_ite`). -/

namespace Sys2Proof.Machine

/-- `s` with the capacity `M` (R44). -/
def withCapacity (M : Nat) (s : State) : State := { s with C.maxDataLength := M }

theorem checkCfTimeout_withCapacity (M : Nat) (s : State) :
    checkCfTimeout (withCapacity M s) = withCapacity M (checkCfTimeout s) := by
  simp only [checkCfTimeout, apply_ite (withCapacity M)]
  rfl

theorem interruptReception_withCapacity (M : Nat) (e : Event) (s : State) :
    interruptReception e (withCapacity M s) = withCapacity M (interruptReception e s) := by
  simp only [interruptReception, apply_ite (withCapacity M)]
  rfl

theorem receiveSingle_withCapacity (M : Nat) (data : Bytes) (s : State) :
    receiveSingle data (withCapacity M s) = withCapacity M (receiveSingle data s) := by
  simp only [receiveSingle, interruptReception_withCapacity]
  rfl

theorem receiveFirst_withCapacity (M totalSize : Nat) (data : Bytes) (s : State) :
    receiveFirst totalSize data (withCapacity M s) = withCapacity M (receiveFirst totalSize data s) := by
  simp only [receiveFirst, interruptReception_withCapacity, apply_ite (withCapacity M)]
  rfl

theorem countReceived_withCapacity (M : Nat) (s : State) :
    countReceived (withCapacity M s) = withCapacity M (countReceived s) := by
  simp only [countReceived, apply_ite (withCapacity M)]
  rfl

theorem acceptConsecutive_withCapacity (M : Nat) (data : Bytes) (s : State) :
    acceptConsecutive data (withCapacity M s) = withCapacity M (acceptConsecutive data s) := by
  simp only [acceptConsecutive, apply_ite (withCapacity M), ← countReceived_withCapacity]
  rfl

theorem receiveConsecutive_withCapacity (M : Nat) (sn : BitVec 4) (data : Bytes) (s : State) :
    receiveConsecutive sn data (withCapacity M s) = withCapacity M (receiveConsecutive sn data s) := by
  simp only [receiveConsecutive, apply_ite (withCapacity M), ← acceptConsecutive_withCapacity]
  rfl

theorem receiveFlowControl_withCapacity (M : Nat) (fc : FlowControl) (s : State) :
    receiveFlowControl fc (withCapacity M s) = withCapacity M (receiveFlowControl fc s) := by
  simp only [receiveFlowControl, apply_ite (withCapacity M)]
  rfl

theorem receiveFrame_withCapacity (M : Nat) (f : Frame) (s : State) :
    receiveFrame f (withCapacity M s) = withCapacity M (receiveFrame f s) := by
  cases f with
  | single data => exact receiveSingle_withCapacity M data s
  | first totalSize data => exact receiveFirst_withCapacity M totalSize data s
  | consecutive sn data => exact receiveConsecutive_withCapacity M sn data s
  | flowControl fc => exact receiveFlowControl_withCapacity M fc s

theorem processReceive_withCapacity (M : Nat) (rx : Option RawFrame) (s : State) :
    processReceive rx (withCapacity M s) = withCapacity M (processReceive rx s) := by
  simp only [processReceive, show (withCapacity M s).C.addr = s.C.addr from rfl]
  cases rx.filter (isForMe s.C.addr) with
  | none => exact checkCfTimeout_withCapacity M s
  | some x =>
    simp only
    cases parse x.data (rxPrefixSize s.C.addr) with
    | error e => exact checkCfTimeout_withCapacity M (raise (.frameParseError e) s)
    | ok f => simp only [checkCfTimeout_withCapacity, receiveFrame_withCapacity]

/-- Settles O25: neither the checks of PROCESS_RX nor the receive phase read the capacity. -/
theorem receivePhaseIgnoresCapacity : Obligations.ReceivePhaseIgnoresCapacity := by
  intro now M rx s t h
  obtain ⟨hchecks, rfl⟩ := execProcessRx_eq_next_iff.1 h
  exact execProcessRx_eq_next_iff.2 ⟨hchecks, (processReceive_withCapacity M rx (atOp now s)).symm⟩

end Sys2Proof.Machine
end

section
/-! The bound of R27 on the wait counter. Only the count of a Wait (R266) raises the counter, and it tests the bound first. -/

namespace Sys2Proof.Machine

/-- R27: the wait counter is within the bound `C.wftMax`. -/
def WaitBounded (s : State) : Prop := s.wftCounter ≤ s.C.wftMax

theorem waitBounded_receiveFrame {s : State} (h : WaitBounded s) (f : Frame) : WaitBounded (receiveFrame f s) := by
  obtain ⟨_, _, _, _, _, _, _, _, _, _, e⟩ := receiveFrame_frame f s
  rw [e]
  exact h

theorem waitBounded_processReceive {s : State} (h : WaitBounded s) (rx : Option RawFrame) :
    WaitBounded (processReceive rx s) := by
  obtain ⟨_, _, _, _, _, _, _, _, _, _, e⟩ := processReceive_frame rx s
  rw [e]
  exact h

/-- The reset of the transmit side clears the counter. -/
theorem waitBounded_txReset (s : State) : WaitBounded (txReset s) := Nat.zero_le _

/-- The mailbox: a grant clears the counter, a Wait is counted within the bound or ends the send. -/
theorem waitBounded_serveMailbox {s : State} (h : WaitBounded s) : WaitBounded (serveMailbox s) := by
  rcases serveMailbox_cases s with
    ⟨-, e⟩ | ⟨fc, -, ⟨-, e⟩ | ⟨-, -, e⟩ | ⟨-, -, hbound, e⟩ | ⟨-, -, -, e⟩ | ⟨-, -, e⟩⟩ <;> rw [e]
  · exact h
  · exact h
  · exact Nat.zero_le _
  · exact hbound
  · exact waitBounded_txReset _
  · exact waitBounded_txReset _

theorem waitBounded_checkFcTimeout {s : State} (h : WaitBounded s) : WaitBounded (checkFcTimeout s) := by
  rcases checkFcTimeout_cases s with ⟨e, -⟩ | ⟨e, -⟩ <;> rw [e]
  · exact h
  · exact waitBounded_txReset _

theorem waitBounded_startNext {s t : State} (h : WaitBounded s) (ht : startNext s = .ok t) : WaitBounded t := by
  obtain ⟨-, rfl⟩ | ⟨m, q, r, -, -, -, rfl⟩ | ⟨m, q, r, -, -, -, rfl⟩ := startNext_cases ht
  · exact h
  · exact h
  · exact h

theorem waitBounded_emitConsecutive {s t : State} (h : WaitBounded s) (ht : emitConsecutive s = .ok t) : WaitBounded t := by
  obtain ⟨r, -, ⟨-, rfl⟩ | ⟨-, -, rfl⟩ | ⟨-, -, rfl⟩⟩ := emitConsecutive_cases ht
  · exact waitBounded_txReset s
  · exact h
  · exact h

theorem waitBounded_driveState {s t : State} (h : WaitBounded s) (ht : driveState s = .ok t) : WaitBounded t := by
  obtain ⟨-, ht⟩ | ⟨-, rfl⟩ | ⟨-, -, ht⟩ | ⟨-, -, rfl⟩ := driveState_cases ht
  · exact waitBounded_startNext h ht
  · exact h
  · exact waitBounded_emitConsecutive h ht
  · exact h

theorem waitBounded_processTransmit {s t : State} (h : WaitBounded s) (ht : processTransmit s = .ok t) : WaitBounded t := by
  obtain ⟨-, ht⟩ | ⟨-, ht⟩ := processTransmit_cases ht
  · obtain ⟨r, -, rfl⟩ := sendFlowControl_cases ht
    exact h
  · exact waitBounded_driveState (waitBounded_checkFcTimeout (waitBounded_serveMailbox h)) ht

theorem waitBounded_execReset {a : Address} {c : CfgArgs} {s t : State} (h : WaitBounded s) (ht : execReset a c s = .next t) :
    WaitBounded t := by
  obtain ⟨e, -, rfl⟩ | ⟨-, -, rfl⟩ := execReset_next ht
  · exact h
  · exact Nat.zero_le _

/-- Every host instruction but CFG_WRITE keeps the bound; CFG_WRITE may lower `C.wftMax` (log entry 13). -/
theorem waitBounded_exec_host {i : Instr} {s t : State} (hhost : i.isWire = false) (hwrite : ∀ reg v, i ≠ .cfgWrite reg v)
    (h : WaitBounded s) (ht : exec i s = .next t) : WaitBounded t := by
  cases i with
  | reset a c => exact waitBounded_execReset h ht
  | send m =>
    obtain ⟨-, rfl⟩ := execSend_next ht
    exact h
  | receive =>
    obtain rfl := execReceive_next ht
    exact h
  | setFdMode on =>
    obtain rfl := execSetFdMode_next ht
    exact h
  | process now rx =>
    exact waitBounded_processTransmit (waitBounded_processReceive (s := atOp now s) h rx) (execProcess_next ht)
  | processRx now rx =>
    obtain ⟨-, rfl⟩ := execProcessRx_eq_next_iff.1 ht
    exact waitBounded_processReceive (s := atOp now s) h rx
  | processTx now => exact waitBounded_processTransmit (s := atOp now s) h (execProcessTx_next ht)
  | cfgWrite reg v => exact absurd rfl (hwrite reg v)
  | _ => exact absurd hhost.symm Bool.false_ne_true

/-- A wire instruction is a receive operation, which writes no transmit register. -/
theorem waitBounded_exec_wire {i : Instr} {s t : State} (hwire : i.isWire = true) (h : WaitBounded s)
    (ht : exec i s = .next t) : WaitBounded t := by
  obtain ⟨f, e⟩ := exec_of_isWire hwire s
  rw [e] at ht
  obtain ⟨-, rfl⟩ := wireOp_next ht
  exact waitBounded_receiveFrame h f

/-- Settles O55: wire instructions leave the counter alone, host instructions but CFG_WRITE keep the bound. -/
theorem waitCounterStaysBounded : Obligations.WaitCounterStaysBounded := by
  intro i s t _ hbound hwrite ht
  cases hwire : i.isWire
  · exact waitBounded_exec_host hwire hwrite hbound ht
  · exact waitBounded_exec_wire hwire hbound ht

end Sys2Proof.Machine
end

section
/-! The decoder reads back every encoding: the round trip of each instruction, put together (R106 to R109, R135). -/

namespace Sys2Proof.Machine

open Sys2Proof.Laws

/-- Settles O1: one round trip for each constructor. A frame kind comes back through its PCI form, whose ranges `wf` gives; a
host operation through its command code and the ports its row names (log entry 6), whatever their values. -/
theorem wellFormedInstructionsRoundTrip : Obligations.WellFormedInstructionsRoundTrip := by
  intro i
  cases i with
  | sf data => exact RoundTrip.sf data
  | sfEsc data => exact RoundTrip.sfEsc data
  | ff totalSize data => exact RoundTrip.ff totalSize data
  | ffEsc totalSize data => exact RoundTrip.ffEsc totalSize data
  | cf sn data => exact RoundTrip.cf sn data
  | fcCts bs u => exact RoundTrip.fcCts bs u
  | fcWait bs u => exact RoundTrip.fcWait bs u
  | fcOvflw bs u => exact RoundTrip.fcOvflw bs u
  | reset a c => exact RoundTrip.reset a c
  | send m => exact RoundTrip.send m
  | receive => exact RoundTrip.receive
  | setFdMode on => exact RoundTrip.setFdMode on
  | process now rx => exact RoundTrip.process now rx
  | processRx now rx => exact RoundTrip.processRx now rx
  | processTx now => exact RoundTrip.processTx now
  | cfgWrite reg v => exact RoundTrip.cfgWrite reg v

end Sys2Proof.Machine
end

section
/-! The command port: what each code of R135 decodes to, and the step that runs it. -/

namespace Sys2Proof.Machine

variable {c : Command}

theorem decodeCommand_reset (h : c.code = 0) : decodeCommand c = .ok (.reset c.addrCfg c.cfg) := by simp [decodeCommand, h]

theorem decodeCommand_send (h : c.code = 1) : decodeCommand c = .ok (.send c.payload) := by simp [decodeCommand, h]

theorem decodeCommand_receive (h : c.code = 2) : decodeCommand c = .ok .receive := by simp [decodeCommand, h]

theorem decodeCommand_setFdMode (h : c.code = 3) : decodeCommand c = .ok (.setFdMode c.on) := by simp [decodeCommand, h]

theorem decodeCommand_process (h : c.code = 4) : decodeCommand c = .ok (.process c.now c.rxFrame) := by
  simp [decodeCommand, h]

theorem decodeCommand_processRx (h : c.code = 5) : decodeCommand c = .ok (.processRx c.now c.rxFrame) := by
  simp [decodeCommand, h]

theorem decodeCommand_processTx (h : c.code = 6) : decodeCommand c = .ok (.processTx c.now) := by simp [decodeCommand, h]

theorem decodeCommand_cfgWrite (h : c.code = 7) : decodeCommand c = .ok (.cfgWrite c.reg c.value) := by
  simp [decodeCommand, h]

/-- Codes 0x8 to 0xF: the match on the code passes all eight operations. -/
theorem decodeCommand_reserved (h : 8 ≤ c.code.toNat) : decodeCommand c = .error (.reservedCommand c.code) := by
  simp only [decodeCommand]
  generalize c.code.toNat = n at h
  match n, h with
  | n + 8, _ => rfl

/-- A fetched operation that does not decode is refused by its code. -/
theorem step_of_fetch_of_decode_error {e : DecodeError} {s t : State} (hfetch : fetch s = some (c, t))
    (hdecode : decodeCommand c = .error e) : step s = .refused (.reservedCommand c.code) := by
  simp only [step, hfetch, hdecode]

/-- Settles O40: a code of 0 to 7 decodes to its operation, which the step then executes; a reserved code does not decode. -/
theorem commandCodes : Obligations.CommandCodes := by
  intro c rest s hprogram
  have hfetch := fetch_of_program_cons hprogram
  refine ⟨fun h => ?_, fun h => ?_, fun h => ?_, fun h => ?_, fun h => ?_, fun h => ?_, fun h => ?_, fun h => ?_, fun h => ?_⟩
  · exact step_of_fetch_of_decode hfetch (decodeCommand_reset h)
  · exact step_of_fetch_of_decode hfetch (decodeCommand_send h)
  · exact step_of_fetch_of_decode hfetch (decodeCommand_receive h)
  · exact step_of_fetch_of_decode hfetch (decodeCommand_setFdMode h)
  · exact step_of_fetch_of_decode hfetch (decodeCommand_process h)
  · exact step_of_fetch_of_decode hfetch (decodeCommand_processRx h)
  · exact step_of_fetch_of_decode hfetch (decodeCommand_processTx h)
  · exact step_of_fetch_of_decode hfetch (decodeCommand_cfgWrite h)
  · exact step_of_fetch_of_decode_error hfetch (decodeCommand_reserved h)

end Sys2Proof.Machine
end

section
/-! The Timer and FIFO primitives: the laws of R154 and R163. -/

namespace Sys2Proof.Machine

/-- R154 (c): the deadline of a running Timer stays passed as time goes on. -/
theorem expired_mono {T : Timer} {n m : Nat} (h : expired T n = true) (hnm : n ≤ m) : expired T m = true := by
  rw [expired_iff] at h ⊢
  obtain ⟨hrunning, hdeadline⟩ := h
  exact ⟨hrunning, hdeadline.trans hnm⟩

@[simp] theorem isEmpty_iff (q : List Bytes) : isEmpty q = true ↔ q = [] := decide_eq_true_iff

@[simp] theorem pop_nil : pop [] = (none, []) := rfl

@[simp] theorem pop_cons (m : Bytes) (q : List Bytes) : pop (m :: q) = (some m, q) := rfl

@[simp] theorem push_nil (m : Bytes) : push [] m = [m] := rfl

@[simp] theorem push_cons (x : Bytes) (q : List Bytes) (m : Bytes) : push (x :: q) m = x :: push q m := rfl

/-- R163 (c): what is pushed on the empty queue is popped. -/
theorem pop_push_nil (m : Bytes) : pop (push [] m) = (some m, []) := by
  rw [push_nil, pop_cons]

/-- R163 (a): a push behind a head leaves the pop of that head as it is. -/
theorem pop_push_cons (x : Bytes) (q : List Bytes) (m : Bytes) : pop (push (x :: q) m) = (some x, push q m) := by
  rw [push_cons, pop_cons]

/-- Settles O12: the operations are their definitions (R151, R152, R161), and each law of R153, R154, R162 and R163 is a lemma. -/
theorem timerAndFifoOperations : Obligations.TimerAndFifoOperations :=
  ⟨fun _ _ => rfl, rfl, expired_iff, expired_stopTimer, expired_armTimer, fun _ _ _ => expired_mono,
    fun _ _ => rfl, pop_nil, pop_cons, isEmpty_iff, pop_push_nil, pop_push_cons⟩

end Sys2Proof.Machine
end

section
/-! The Addressing unit: its functions by mode (R170 to R175), the construction check (R176) and what holds while no Transport
exists (R370). -/

namespace Sys2Proof.Machine

/-! ### The modes with an extension byte, and the others -/

/-- R170: the modes with the one-byte prefix. -/
theorem hasExtension_iff (m : AddrMode) : hasExtension m = true ↔ m = .extended ∨ m = .mixed := by
  cases m <;> simp [hasExtension]

theorem hasExtension_eq_false {m : AddrMode} (hext : m ≠ .extended) (hmixed : m ≠ .mixed) : hasExtension m = false := by
  rw [← Bool.not_eq_true, hasExtension_iff]
  exact not_or.2 ⟨hext, hmixed⟩

section
variable {a : Address}

theorem rxPrefixSize_of_extension (h : hasExtension a.mode = true) : rxPrefixSize a = 1 := if_pos h

theorem rxPrefixSize_of_no_extension (h : hasExtension a.mode = false) : rxPrefixSize a = 0 := by simp [rxPrefixSize, h]

theorem txPayloadPrefix_of_extension {e : Byte} (h : hasExtension a.mode = true) (he : a.ext = some e) :
    txPayloadPrefix a = [e] := by
  simp [txPayloadPrefix, h, he]

theorem txPayloadPrefix_of_no_extension (h : hasExtension a.mode = false) : txPayloadPrefix a = [] := by
  simp [txPayloadPrefix, h]

theorem is29Bit_of_extension (h : hasExtension a.mode = true) : is29Bit a = a.id29 := by
  obtain hm | hm := (hasExtension_iff _).1 h <;> simp only [is29Bit, hm]

theorem is29Bit_iff_of_no_extension (h : hasExtension a.mode = false) : is29Bit a = true ↔ a.mode ≠ .normal11Bit := by
  cases hm : a.mode with
  | normal11Bit => simp [is29Bit, hm]
  | normal29Bit => simp [is29Bit, hm]
  | normalFixed => simp [is29Bit, hm]
  | extended => simp [hm, hasExtension] at h
  | mixed => simp [hm, hasExtension] at h

/-- R171 with a prefix: an empty payload has no extension byte to match. -/
theorem isForMe_iff_of_extension {e : Byte} (h : hasExtension a.mode = true) (he : a.ext = some e) (f : RawFrame) :
    isForMe a f = true ↔ f.id = a.rxId ∧ ∃ rest, f.data = e :: rest := by
  cases hdata : f.data with
  | nil => simp [isForMe, rxPrefixSize_of_extension h, hdata]
  | cons b rest => simp [isForMe, rxPrefixSize_of_extension h, hdata, he]

theorem isForMe_iff_of_no_extension (h : hasExtension a.mode = false) (f : RawFrame) :
    isForMe a f = true ↔ f.id = a.rxId := by
  simp [isForMe, rxPrefixSize_of_no_extension h]

end

/-- Settles O13: the functions by whether the mode has an extension byte, which the construction check makes present. -/
theorem addressingFunctions : Obligations.AddressingFunctions := by
  intro a hok
  refine ⟨fun hmode => ?_, fun hext hmixed => ?_, (txPayloadPrefix_length hok).1, rfl, rfl⟩
  · have h := (hasExtension_iff _).2 hmode
    obtain ⟨-, -, -, -, hbyte⟩ := checkAddress_ok hok
    obtain ⟨e, he⟩ := hbyte h
    exact ⟨e, he, rxPrefixSize_of_extension h, txPayloadPrefix_of_extension h he, is29Bit_of_extension h,
      isForMe_iff_of_extension h he⟩
  · have h := hasExtension_eq_false hext hmixed
    exact ⟨rxPrefixSize_of_no_extension h, txPayloadPrefix_of_no_extension h, is29Bit_iff_of_no_extension h,
      isForMe_iff_of_no_extension h⟩

/-! ### The construction check -/

section
variable {a : Address}

theorem checkAddress_of_outOfRange (h : 2 ^ idWidth a ≤ a.txId ∨ 2 ^ idWidth a ≤ a.rxId) :
    checkAddress a = .error .idOutOfRange := if_pos h

variable (hrange : ¬(2 ^ idWidth a ≤ a.txId ∨ 2 ^ idWidth a ≤ a.rxId))
include hrange

theorem checkAddress_of_collision (h : a.txId = a.rxId) : checkAddress a = .error .idCollision := by
  rw [checkAddress, if_neg hrange, if_pos h]

/-- The third check, once the first two have passed. -/
theorem checkAddress_of_distinct (hne : a.txId ≠ a.rxId) :
    checkAddress a =
      if (a.mode = .extended ∨ a.mode = .mixed) ∧ a.ext = none then .error .missingExtension else .ok a := by
  simp only [checkAddress, if_neg hrange, if_neg hne, Bool.and_eq_true, hasExtension_iff, Option.isNone_iff_eq_none]

end

/-! ### No Transport -/

/-- R176: a RESET whose address fails the check answers the error and leaves no Transport. -/
theorem execReset_of_error {a : Address} {e : AddrError} (h : checkAddress a = .error e) (c : CfgArgs) (s : State) :
    execReset a c s = .next { beginOp s with live := false, reply := .addrError e } := by
  simp only [execReset, h]

section
variable {s : State} (hlive : s.live = false)
include hlive

theorem hostOp_not_live (f : State → State) : hostOp f s = .refused .noTransport := by simp [hostOp, hlive]

theorem wireOp_not_live (f : State → State) : wireOp f s = .refused .noTransport := by simp [wireOp, hlive]

/-- The first check of a process operation is for the Transport (R370). -/
theorem beginProcess_not_live (now : Nat) (rx : Option RawFrame) : beginProcess now rx s = .error .noTransport :=
  if_pos hlive

/-- R370: with no Transport, every instruction but RESET is refused, before any check of its operands. -/
theorem exec_not_live {i : Instr} (hreset : ∀ a c, i ≠ .reset a c) : exec i s = .refused .noTransport := by
  cases hwire : i.isWire with
  | true =>
    obtain ⟨f, e⟩ := exec_of_isWire hwire s
    rw [e, wireOp_not_live hlive]
  | false =>
    cases i with
    | reset a c => exact absurd rfl (hreset a c)
    | send m => simp [exec, execSend, hlive, hostOp_not_live hlive]
    | receive => simp only [exec, execReceive, hostOp_not_live hlive]
    | setFdMode on => simp only [exec, execSetFdMode, hostOp_not_live hlive]
    | process now rx => simp only [exec, execProcess, beginProcess_not_live hlive]
    | processRx now rx => simp only [exec, execProcessRx, beginProcess_not_live hlive]
    | processTx now => simp only [exec, execProcessTx, beginProcess_not_live hlive]
    | cfgWrite reg v => simp [exec, execCfgWrite, hlive, hostOp_not_live hlive]
    | _ => exact absurd hwire.symm Bool.false_ne_true

end

/-- Settles O14: each check answers once those before it have passed; the state after a RESET that fails is not live. -/
theorem constructionCheckOrder : Obligations.ConstructionCheckOrder := by
  intro a
  refine ⟨checkAddress_of_outOfRange, checkAddress_of_collision, fun hrange hne hmissing => ?_,
    fun hrange hne hmissing => ?_, fun e c s he => ?_⟩
  · exact (checkAddress_of_distinct hrange hne).trans (if_pos hmissing)
  · exact (checkAddress_of_distinct hrange hne).trans (if_neg hmissing)
  · exact ⟨_, execReset_of_error he c s, rfl, fun i hreset => exec_not_live rfl hreset⟩

end Sys2Proof.Machine
end

section
/-! `parse`: what each type nibble answers (R191 to R201), and what an answered FirstFrame says about the payload (R197). -/

namespace Sys2Proof.Machine

/-! ### SingleFrame (R193, R194) -/

theorem parseSf_of_short {lo : Nat} {rest : Bytes} (h : rest.length < lo) : parseSf lo rest = .error .lengthExceedsPayload :=
  if_pos h

theorem parseSf_of_le {lo : Nat} {rest : Bytes} (h : lo ≤ rest.length) : parseSf lo rest = .ok (.single (rest.take lo)) :=
  if_neg (Nat.not_lt.2 h)

@[simp] theorem parseSfEsc_nil : parseSfEsc [] = .error .zeroLengthSingleFrame := rfl

@[simp] theorem parseSfEsc_zero (rest : Bytes) : parseSfEsc (0x00 :: rest) = .error .zeroLengthSingleFrame := rfl

/-- With its length not 0, the escape form takes its data as the short form does. -/
theorem parseSfEsc_byteOf {n : Nat} (h1 : 1 ≤ n) (h2 : n ≤ 255) (rest : Bytes) :
    parseSfEsc (byteOf n :: rest) = parseSf n rest := by
  simp only [parseSfEsc, byteOf_toNat_of_lt (show n < 256 by omega)]
  exact if_neg (by omega)

/-! ### FirstFrame (R195, R196) -/

@[simp] theorem parseFf_nil (lo : Nat) : parseFf lo [] = .error .payloadTooShort := rfl

theorem parseFf_of_short {lo : Nat} {b1 : Byte} (h : ffDlShort lo b1 ≠ 0) (rest : Bytes) :
    parseFf lo (b1 :: rest) = .ok (.first (ffDlShort lo b1) rest) :=
  if_neg h

theorem parseFf_of_escape {lo : Nat} {b1 : Byte} (h : ffDlShort lo b1 = 0) (rest : Bytes) :
    parseFf lo (b1 :: rest) = parseFfEsc rest :=
  if_pos h

/-- Type 1 with the 12-bit field zero. -/
theorem parse_ffEscape (rest : Bytes) : parse (0x10 :: 0x00 :: rest) 0 = parseFfEsc rest := rfl

/-- PCI bytes 2 to 5 are missing in part. -/
theorem parseFfEsc_of_short {rest : Bytes} (h : rest.length < 4) : parseFfEsc rest = .error .payloadTooShort :=
  match rest, h with
  | [], _ | [_], _ | [_, _], _ | [_, _, _], _ => rfl

section
variable {b2 b3 b4 b5 : Byte}

theorem parseFfEsc_of_zero (h : ffDlEsc b2 b3 b4 b5 = 0) (rest : Bytes) :
    parseFfEsc (b2 :: b3 :: b4 :: b5 :: rest) = .error .invalidLength :=
  if_pos h

theorem parseFfEsc_of_ne_zero (h : ffDlEsc b2 b3 b4 b5 ≠ 0) (rest : Bytes) :
    parseFfEsc (b2 :: b3 :: b4 :: b5 :: rest) = .ok (.first (ffDlEsc b2 b3 b4 b5) rest) :=
  if_neg h

end

/-! ### FlowControlFrame (R200, R120) -/

theorem parseFc_of_short {rest : Bytes} (h : rest.length < 2) (lo : Nat) : parseFc lo rest = .error .payloadTooShort :=
  match rest, h with
  | [], _ | [_], _ => rfl

/-- The statuses past 2 are reserved (R109). -/
theorem flowStatusOf_reserved {lo : Nat} (h : 3 ≤ lo) : flowStatusOf lo = none :=
  match lo, h with
  | _ + 3, _ => rfl

theorem parseFc_of_reserved_status {lo : Nat} (h : 3 ≤ lo) (bs c : Byte) (rest : Bytes) :
    parseFc lo (bs :: c :: rest) = .error .invalidFlowStatus := by
  simp only [parseFc, flowStatusOf_reserved h]

section
variable {c : Byte}

theorem stminOf_of_ms (h : c.toNat ≤ 0x7F) : stminOf c = some (1000 * c.toNat) := if_pos h

theorem stminOf_of_us (h1 : 0xF1 ≤ c.toNat) (h2 : c.toNat ≤ 0xF9) : stminOf c = some (100 * (c.toNat - 0xF0)) := by
  rw [stminOf, if_neg (by omega), if_pos ⟨h1, h2⟩]

theorem stminOf_of_reserved (h1 : 0x80 ≤ c.toNat) (h2 : c.toNat ≤ 0xF0 ∨ 0xFA ≤ c.toNat) : stminOf c = none := by
  rw [stminOf, if_neg (by omega), if_neg (by omega)]

variable {lo : Nat} {st : FlowStatus} (hst : flowStatusOf lo = some st)
include hst

theorem parseFc_of_stmin {u : Nat} (hu : stminOf c = some u) (bs : Byte) (rest : Bytes) :
    parseFc lo (bs :: c :: rest) = .ok (.flowControl ⟨st, bs, u⟩) := by
  simp only [parseFc, hst, hu]

theorem parseFc_of_reserved_stmin (hc : stminOf c = none) (bs : Byte) (rest : Bytes) :
    parseFc lo (bs :: c :: rest) = .error .invalidStmin := by
  simp only [parseFc, hst, hc]

end

/-! ### The statements on `parse` -/

/-- Settles O2: each word is read by evaluating the decoder. -/
theorem specVectorWordsDecode : Obligations.SpecVectorWordsDecode :=
  ⟨rfl, rfl, rfl, rfl, rfl, rfl, rfl, rfl, rfl, rfl⟩

/-- Settles O3: nothing is left after the prefix, or the type nibble decides; the prefix bytes are dropped unread. -/
theorem classificationByTypeNibble : Obligations.ClassificationByTypeNibble := by
  refine ⟨fun d p h => ?_, fun lead rest b0 h => ?_, fun lead rest sn => ?_, fun b d => ?_⟩
  · rw [parse_eq_drop, List.drop_eq_nil_of_le h, parse_nil]
  · rw [parse_append, parse_unsupported h]
  · rw [parse_append, parse_type2]
  · exact parse_append [b] d

/-- Settles O4: both forms hand their length to the same test against the bytes that follow. -/
theorem singleFrameParse : Obligations.SingleFrameParse := by
  refine ⟨fun lead rest lo h1 h2 => ?_, fun lead => ?_, fun lead rest => ?_, fun lead rest n h1 h2 => ?_⟩
  · rw [parse_append, parse_type0 h1 h2]
    exact ⟨parseSf_of_short, parseSf_of_le⟩
  · rw [parse_append, parse_escape, parseSfEsc_nil]
  · rw [parse_append, parse_escape, parseSfEsc_zero]
  · rw [parse_append, parse_escape, parseSfEsc_byteOf h1 h2]
    exact ⟨parseSf_of_short, parseSf_of_le⟩

/-- Settles O5: the 12-bit field, where it is 0 the 32-bit field. -/
theorem firstFrameParse : Obligations.FirstFrameParse := by
  refine ⟨fun lead hi h => ?_, fun lead rest hi b1 h hL => ?_, fun lead rest h => ?_, fun lead rest b2 b3 b4 b5 => ?_⟩
  · rw [parse_append, parse_type1 h, parseFf_nil]
  · rw [parse_append, parse_type1 h]
    exact parseFf_of_short hL rest
  · rw [parse_append, parse_ffEscape, parseFfEsc_of_short h]
  · rw [parse_append, parse_ffEscape]
    exact ⟨fun hL => parseFfEsc_of_zero hL rest, fun hL => parseFfEsc_of_ne_zero hL rest⟩

/-- Settles O6: the length, the status, the STmin code, in that order of test. -/
theorem flowControlParse : Obligations.FlowControlParse := by
  refine ⟨fun lead rest lo hlo h => ?_, fun lead rest lo bs c h hlo => ?_, fun lead rest lo st bs c hlo => ?_⟩
  · rw [parse_append, parse_type3 hlo, parseFc_of_short h]
  · rw [parse_append, parse_type3 hlo, parseFc_of_reserved_status h]
  · have hst : flowStatusOf lo = some st := by
      obtain ⟨rfl, rfl⟩ | ⟨rfl, rfl⟩ | ⟨rfl, rfl⟩ := hlo <;> rfl
    rw [parse_append, parse_type3 (show lo ≤ 15 by omega)]
    exact ⟨fun h => parseFc_of_stmin hst (stminOf_of_ms h) bs rest,
      fun h1 h2 => parseFc_of_stmin hst (stminOf_of_us h1 h2) bs rest,
      fun h1 h2 => parseFc_of_reserved_stmin hst (stminOf_of_reserved h1 h2) bs rest⟩

/-! ### A FirstFrame that parses -/

theorem parseSf_ne_first (lo : Nat) (rest : Bytes) (L : Nat) (data : Bytes) : parseSf lo rest ≠ .ok (.first L data) := by
  rw [parseSf]
  split <;> simp

theorem parseSfEsc_ne_first (rest : Bytes) (L : Nat) (data : Bytes) : parseSfEsc rest ≠ .ok (.first L data) := by
  cases rest with
  | nil => simp
  | cons n rest =>
    rw [parseSfEsc]
    split
    · simp
    · exact parseSf_ne_first n.toNat rest L data

theorem parseFc_ne_first (lo : Nat) (rest : Bytes) (L : Nat) (data : Bytes) : parseFc lo rest ≠ .ok (.first L data) := by
  match rest with
  | [] | [_] => simp [parseFc]
  | bs :: c :: rest =>
    cases hst : flowStatusOf lo with
    | none => simp [parseFc, hst]
    | some st =>
      cases hu : stminOf c with
      | none => simp [parseFc_of_reserved_stmin hst hu]
      | some u => simp [parseFc_of_stmin hst hu]

/-- Only type 1 answers a FirstFrame. -/
theorem parse_eq_first {d data : Bytes} {p L : Nat} (h : parse d p = .ok (.first L data)) :
    ∃ b0 rest, d.drop p = b0 :: rest ∧ highNibble b0 = 1 ∧ parseFf (lowNibble b0) rest = .ok (.first L data) := by
  simp only [parse] at h
  split at h
  · simp at h
  · rename_i b0 rest hd
    split at h
    · split at h
      · exact absurd h (parseSfEsc_ne_first rest L data)
      · exact absurd h (parseSf_ne_first _ rest L data)
    · rename_i htype
      exact ⟨b0, rest, hd, htype, h⟩
    · simp at h
    · exact absurd h (parseFc_ne_first _ rest L data)
    · simp at h

theorem parseFfEsc_eq_first {rest data : Bytes} {L : Nat} (h : parseFfEsc rest = .ok (.first L data)) :
    ∃ b2 b3 b4 b5, rest = b2 :: b3 :: b4 :: b5 :: data := by
  match rest with
  | b2 :: b3 :: b4 :: b5 :: rest =>
    rw [parseFfEsc] at h
    split at h
    · simp at h
    · cases h
      exact ⟨b2, b3, b4, b5, rfl⟩
  | [] | [_] | [_, _] | [_, _, _] => simp [parseFfEsc] at h

/-- The two forms: the 12-bit field not 0, or 0 and four more PCI bytes. -/
theorem parseFf_eq_first {lo L : Nat} {rest data : Bytes} (h : parseFf lo rest = .ok (.first L data)) :
    (∃ b1, rest = b1 :: data ∧ L = ffDlShort lo b1) ∨
    (∃ b1 b2 b3 b4 b5, rest = b1 :: b2 :: b3 :: b4 :: b5 :: data ∧ ffDlShort lo b1 = 0) := by
  match rest with
  | [] => simp at h
  | b1 :: rest =>
    by_cases hL : ffDlShort lo b1 = 0
    · rw [parseFf_of_escape hL] at h
      obtain ⟨b2, b3, b4, b5, rfl⟩ := parseFfEsc_eq_first h
      exact .inr ⟨b1, b2, b3, b4, b5, rfl, hL⟩
    · rw [parseFf_of_short hL] at h
      cases h
      exact .inl ⟨b1, rfl, rfl⟩

/-- R111: the PCI of a FirstFrame whose 12-bit field is 0. -/
theorem pciLength_of_escape {d rest : Bytes} {p : Nat} {b0 b1 : Byte} (hd : d.drop p = b0 :: b1 :: rest)
    (htype : highNibble b0 = 1) (hL : ffDlShort (lowNibble b0) b1 = 0) : pciLength d p = 6 := by
  simp only [pciLength, hd, htype, if_pos hL]

/-- Settles O7: the range of the length is that of every parsed frame; the width of the PCI bounds it further, and the form
gives at least two PCI bytes before the data. -/
theorem decodedFirstFrameBounds : Obligations.DecodedFirstFrameBounds := by
  intro d data p L h
  obtain ⟨-, hfirst, -⟩ := parse_ok_fields h
  obtain ⟨hlow, hhigh⟩ := hfirst L data rfl
  obtain ⟨b0, rest, hd, htype, hff⟩ := parse_eq_first h
  have hlen : (b0 :: rest).length ≤ d.length := hd ▸ (List.drop_sublist p d).length_le
  refine ⟨hlow, hhigh, ?_⟩
  obtain ⟨b1, rfl, rfl⟩ | ⟨b1, b2, b3, b4, b5, rfl, hzero⟩ := parseFf_eq_first hff
  · simp only [List.length_cons] at hlen
    exact ⟨fun _ => ffDlShort_lt (lowNibble_lt b0) b1, by omega⟩
  · simp only [List.length_cons] at hlen
    rw [pciLength_of_escape hd htype hzero]
    exact ⟨by omega, by omega⟩

end Sys2Proof.Machine
end

section
/-! `serialize`: the bytes of each variant (R211), and what they parse back to (R213). -/

namespace Sys2Proof.Machine

/-! ### The form each range of R211 gets -/

theorem serialize_single_short {data : Bytes} (h1 : 1 ≤ data.length) (h2 : data.length ≤ 7) :
    serialize (.single data) = some (sfBytes data) :=
  if_pos ⟨h1, h2⟩

theorem serialize_single_escape {data : Bytes} (h1 : 8 ≤ data.length) (h2 : data.length ≤ 255) :
    serialize (.single data) = some (sfEscBytes data) := by
  rw [serialize, if_neg (show ¬(1 ≤ data.length ∧ data.length ≤ 7) by omega)]
  exact if_pos ⟨h1, h2⟩

theorem serialize_first_short {L : Nat} (h1 : 1 ≤ L) (h2 : L ≤ 4095) (data : Bytes) :
    serialize (.first L data) = some (ffBytes L data) :=
  if_pos ⟨h1, h2⟩

theorem serialize_first_escape {L : Nat} (h1 : 4096 ≤ L) (h2 : L ≤ Config.msgLenMax) (data : Bytes) :
    serialize (.first L data) = some (ffEscBytes L data) := by
  rw [serialize, if_neg (show ¬(1 ≤ L ∧ L ≤ 4095) by omega)]
  exact if_pos ⟨h1, h2⟩

@[simp] theorem serialize_consecutive (sn : BitVec 4) (data : Bytes) :
    serialize (.consecutive sn data) = some (cfBytes sn data) := rfl

theorem serialize_flowControl {fc : FlowControl} (h : stminLegal fc.stminUs = true) :
    serialize (.flowControl fc) = some (fcBytes fc) :=
  if_pos h

/-- The separation times of R120 in whole milliseconds: the code is their number. -/
theorem serialize_flowControl_ms {n : Nat} (h : n ≤ 127) (st : FlowStatus) (b : Byte) :
    serialize (.flowControl ⟨st, b, 1000 * n⟩) = some [byteOf (0x30 + flowStatusCode st), b, byteOf n] := by
  rw [serialize_flowControl ((stminLegal_iff _).2 (.inl ⟨n, h, rfl⟩)), fcBytes, stminCode_ms]

/-- Those in hundreds of microseconds: the code counts on from F0. -/
theorem serialize_flowControl_us {n : Nat} (h1 : 1 ≤ n) (h2 : n ≤ 9) (st : FlowStatus) (b : Byte) :
    serialize (.flowControl ⟨st, b, 100 * n⟩) = some [byteOf (0x30 + flowStatusCode st), b, byteOf (0xF0 + n)] := by
  rw [serialize_flowControl ((stminLegal_iff _).2 (.inr ⟨n, h1, h2, rfl⟩)), fcBytes, stminCode_us h1 h2]

/-- This side's own flow-control frame: `C.stminMs` is its code as it stands, one bit wider. -/
theorem serialize_ownFlowControl (C : ConfigRegs) :
    serialize (.flowControl ⟨.continueToSend, C.blocksize, 1000 * C.stminMs.toNat⟩) =
      some [0x30, C.blocksize, C.stminMs.setWidth 8] := by
  rw [serialize_flowControl_ms (Nat.le_of_lt_succ C.stminMs.isLt), byteOf, byteOf, BitVec.ofNat_toNat]
  rfl

/-- Settles O8: the form of each range, written out; the three statuses are those of one rule. -/
theorem serializedBytes : Obligations.SerializedBytes :=
  ⟨fun _ => serialize_single_short, fun _ => serialize_single_escape,
    fun _ data h1 h2 => serialize_first_short h1 h2 data, fun _ data h1 h2 => serialize_first_escape h1 h2 data,
    serialize_consecutive,
    fun b _ h => ⟨serialize_flowControl_ms h .continueToSend b, serialize_flowControl_ms h .wait b,
      serialize_flowControl_ms h .overflow b⟩,
    fun b _ h1 h2 => ⟨serialize_flowControl_us h1 h2 .continueToSend b, serialize_flowControl_us h1 h2 .wait b,
      serialize_flowControl_us h1 h2 .overflow b⟩,
    serialize_ownFlowControl⟩

/-! ### What serializes parses back, whatever padding follows

A SingleFrame and a FlowControlFrame drop the padding, a ConsecutiveFrame keeps it as data, and so does a FirstFrame, whose
law is for no padding (R213). -/

section
variable {bytes : Bytes}

theorem parse_of_serialize_single {data : Bytes} (h : serialize (.single data) = some bytes) (tail : Bytes) :
    parse (bytes ++ tail) 0 = .ok (.single data) := by
  simp only [serialize] at h
  split at h
  · rename_i hshort
    obtain rfl := Option.some.inj h
    exact parse_sfBytes hshort.1 (hshort.2.trans (by decide))
  · split at h
    · rename_i hescape
      obtain rfl := Option.some.inj h
      exact parse_sfEscBytes (by omega) hescape.2
    · simp at h

theorem parse_of_serialize_first {L : Nat} {data : Bytes} (h : serialize (.first L data) = some bytes) :
    parse bytes 0 = .ok (.first L data) := by
  simp only [serialize] at h
  split at h
  · rename_i hshort
    obtain rfl := Option.some.inj h
    exact parse_ffBytes hshort.1 hshort.2
  · split at h
    · rename_i hescape
      obtain rfl := Option.some.inj h
      exact parse_ffEscBytes (by omega) hescape.2
    · simp at h

theorem parse_of_serialize_consecutive {sn : BitVec 4} {data : Bytes} (h : serialize (.consecutive sn data) = some bytes)
    (tail : Bytes) : parse (bytes ++ tail) 0 = .ok (.consecutive sn (data ++ tail)) := by
  obtain rfl := Option.some.inj h
  exact parse_cfBytes

theorem parse_of_serialize_flowControl {fc : FlowControl} (h : serialize (.flowControl fc) = some bytes) (tail : Bytes) :
    parse (bytes ++ tail) 0 = .ok (.flowControl fc) := by
  simp only [serialize] at h
  split at h
  · rename_i hlegal
    obtain rfl := Option.some.inj h
    exact parse_fcBytes hlegal
  · simp at h

end

end Sys2Proof.Machine
end

section
/-! `encodeRaw`: the frame it builds (R212, R125), and what the receiver makes of it (R213). -/

namespace Sys2Proof.Machine

/-! ### The padded length -/

/-- The search in the FD length set is R125's table. -/
theorem paddedLength_eq_padTo {n : Nat} (h : n ≤ 64) : paddedLength n = some (padTo n) := by
  simp only [paddedLength, padTo]
  split_ifs <;> simp [Config.fdLenSet, *]

/-- Padding stays within the capacity: 8 is padded to no more than itself, and 64 is the largest FD length. -/
theorem paddedLength_le_capacity {n m M : Nat} (hM : M = 8 ∨ M = 64) (hn : n ≤ M) (hm : paddedLength n = some m) : m ≤ M := by
  obtain rfl | rfl := hM
  · rw [paddedLength, if_pos hn] at hm
    cases hm
    exact hn
  · obtain ⟨-, h | h⟩ := paddedLength_le hm
    · exact h.trans (by decide)
    · exact (by decide : ∀ k ∈ Config.fdLenSet, k ≤ 64) m h

/-! ### The two answers for a frame that serializes -/

section
variable {C : ConfigRegs} {f : Frame} {bytes : Bytes} (hs : serialize f = some bytes)
include hs

theorem encodeRaw_of_fits (hC : C.maxDataLength ≤ 64) (hfits : (txPayloadPrefix C.addr ++ bytes).length ≤ C.maxDataLength) :
    encodeRaw C f = .ok (emitted C bytes) := by
  simp only [encodeRaw, hs, if_neg (Nat.not_lt.2 hfits), paddedLength_eq_padTo (hfits.trans hC)]
  rfl

theorem encodeRaw_of_tooLong (hlong : C.maxDataLength < (txPayloadPrefix C.addr ++ bytes).length) :
    encodeRaw C f = .error .encodeRawCapacity := by
  simp only [encodeRaw, hs, if_pos hlong]

end

theorem ConfigInv.maxDataLength_le {C : ConfigRegs} (hC : ConfigInv C) : C.maxDataLength ≤ 64 :=
  hC.dataLength.elim (fun h => h.trans_le (by decide)) (fun h => h.le)

/-- Settles O9: `serialize` gives the body, and the capacity decides between the two answers. -/
theorem encodeRawBuildsTheFrame : Obligations.EncodeRawBuildsTheFrame := by
  intro C f bytes hC hs
  exact ⟨encodeRaw_of_fits hs hC.maxDataLength_le, encodeRaw_of_tooLong hs⟩

/-! ### The emitted frame at the receiver -/

/-- Settles O10: behind the prefix stand the serialized bytes and the padding, and each variant's own law reads them back. -/
theorem emittedFrameParsesBack : Obligations.EmittedFrameParsesBack := by
  intro C f r h
  obtain ⟨bytes, m, hs, -, -, rfl⟩ := encodeRaw_cases h
  rw [List.append_assoc]
  refine ⟨?_, ?_, ?_, ?_⟩
  · rintro data rfl
    rw [parse_append, parse_of_serialize_single hs]
  · rintro fc rfl
    rw [parse_append, parse_of_serialize_flowControl hs]
  · rintro L data rfl hunpadded
    rw [parse_eq_drop]
    exact parse_of_serialize_first hunpadded
  · rintro sn data rfl
    exact ⟨_, by rw [parse_append, parse_of_serialize_consecutive hs]⟩

/-- R372 (3): the mirrored peer takes a frame under this side's transmit ID that begins with its prefix. -/
theorem isForMe_of_mirrors {a peer : Address} {r : RawFrame} {rest : Bytes} (ha : checkAddress a = .ok a)
    (hpeer : Mirrors a peer) (hid : r.id = a.txId) (hdata : r.data = txPayloadPrefix a ++ rest) : isForMe peer r = true := by
  obtain ⟨hrx, -, hmode, hext, -⟩ := hpeer
  have hid' : r.id = peer.rxId := hid.trans hrx.symm
  cases hx : hasExtension peer.mode with
  | false => exact (isForMe_iff_of_no_extension hx r).2 hid'
  | true =>
    obtain ⟨-, -, -, -, hbyte⟩ := checkAddress_ok ha
    obtain ⟨e, he⟩ := hbyte (hmode ▸ hx)
    rw [txPayloadPrefix_of_extension (hmode ▸ hx) he] at hdata
    exact (isForMe_iff_of_extension hx (hext.trans he) r).2 ⟨hid', rest, hdata⟩

/-- R101 for a frame under an ID the construction check passed, of a length the mode allows. -/
theorem rawFrameOk_of_capacity {C : ConfigRegs} (hC : ConfigInv C) {data : Bytes} (hlen : data.length ≤ C.maxDataLength) :
    rawFrameOk ⟨C.addr.txId, data, fdMode C⟩ = true := by
  obtain ⟨-, hid, -⟩ := checkAddress_ok hC.address
  simp only [rawFrameOk, Bool.and_eq_true, Bool.or_eq_true, decide_eq_true_eq]
  refine ⟨⟨hid.trans_le (idWidth_pow_le C.addr), hlen.trans hC.maxDataLength_le⟩, ?_⟩
  obtain hclassic | hfd := hC.dataLength
  · exact .inr (hclassic ▸ hlen)
  · exact .inl (beq_iff_eq.2 hfd)

/-- Settles O11: the padded length is the length of the data; the rest is R101 and the peer's filter. -/
theorem emittedFrameIsWellFormedAndForThePeer : Obligations.EmittedFrameIsWellFormedAndForThePeer := by
  intro C f r hC h
  obtain ⟨bytes, m, -, hfits, hm, rfl⟩ := encodeRaw_cases h
  obtain ⟨hle, hallowed⟩ := paddedLength_le hm
  have hlen : (txPayloadPrefix C.addr ++ bytes ++
      List.replicate (m - (txPayloadPrefix C.addr ++ bytes).length) C.padByte).length = m := by
    rw [List.length_append, List.length_replicate, Nat.add_sub_cancel' hle]
  have hcap : m ≤ C.maxDataLength := paddedLength_le_capacity hC.dataLength hfits hm
  refine ⟨rawFrameOk_of_capacity hC (hlen.trans_le hcap), rfl, beq_iff_eq, hlen.trans_le hcap, ?_, fun peer hpeer => ?_⟩
  · rw [hlen]
    exact hallowed
  · exact isForMe_of_mirrors hC.address hpeer rfl (List.append_assoc ..)

end Sys2Proof.Machine
end

section
/-! The receive machine: the next state each frame kind gives, as one equation per case of its rule (R233 to R240). -/

namespace Sys2Proof.Machine

/-- R235, R236, R334: a new message resets the receive side, with the event exactly if a reassembly was in progress. -/
theorem interruptReception_eq (e : Event) (s : State) :
    interruptReception e s = { rxReset s with events := s.events ++ interruptEvents e s } := by
  obtain ⟨h, hidle⟩ | ⟨h, hwait⟩ := interruptReception_cases e s
  · rw [h, interruptEvents, if_pos hidle, List.append_nil]
    rfl
  · rw [h, interruptEvents, if_neg (by simp [hwait])]
    rfl

theorem receiveSingle_eq (data : Bytes) (s : State) :
    receiveSingle data s = { rxReset s with
      inbound := s.inbound ++ [data], events := s.events ++ interruptEvents .receptionInterruptedBySingleFrame s } := by
  rw [receiveSingle, interruptReception_eq]
  rfl

section
variable {L : Nat} {data : Bytes}

theorem receiveFirst_of_le (h : L ≤ data.length) (s : State) :
    receiveFirst L data s = { rxReset s with
      inbound := s.inbound ++ [data.take L]
      events := s.events ++ interruptEvents .receptionInterruptedByFirstFrame s } := by
  obtain ⟨_, rfl, ⟨-, e⟩ | ⟨hlt, -⟩⟩ := receiveFirst_cases L data s
  · rw [e, interruptReception_eq]
    rfl
  · omega

theorem receiveFirst_of_lt (h : data.length < L) (s : State) :
    receiveFirst L data s = { rxReset s with
      rxState := .waitCF, rxBuffer := data, rxFrameLen := L, rxSeqNum := 1, pendingFlowControlTx := true
      events := s.events ++ interruptEvents .receptionInterruptedByFirstFrame s } := by
  obtain ⟨_, rfl, ⟨hle, -⟩ | ⟨-, e⟩⟩ := receiveFirst_cases L data s
  · omega
  · rw [e, interruptReception_eq]

end

section
variable {s : State}

theorem receiveConsecutive_of_idle (h : s.rxState = .idle) (sn : BitVec 4) (data : Bytes) :
    receiveConsecutive sn data s = { rxReset s with events := s.events ++ [.unexpectedConsecutiveFrame] } :=
  if_pos h

theorem receiveConsecutive_of_ne {sn : BitVec 4} (h : s.rxState = .waitCF) (hsn : sn ≠ s.rxSeqNum) (data : Bytes) :
    receiveConsecutive sn data s =
      { rxReset s with events := s.events ++ [.wrongSequenceNumber s.rxSeqNum sn] } := by
  rw [receiveConsecutive, if_neg (by simp [h]), if_neg hsn]
  rfl

theorem receiveConsecutive_of_expected (h : s.rxState = .waitCF) (data : Bytes) :
    receiveConsecutive s.rxSeqNum data s = acceptConsecutive data s := by
  rw [receiveConsecutive, if_neg (by simp [h]), if_pos rfl]

theorem receiveFlowControl_of_idle (h : s.rxState = .idle) (fc : FlowControl) :
    receiveFlowControl fc s = postMailbox fc s :=
  if_neg (by simp [h])

theorem receiveFlowControl_of_overflow {fc : FlowControl} (h : keepsListening fc.flowStatus = false) (s : State) :
    receiveFlowControl fc s = postMailbox fc s :=
  if_neg (by simp [h])

theorem receiveFlowControl_of_waitCF {fc : FlowControl} (h : s.rxState = .waitCF)
    (hlistens : keepsListening fc.flowStatus = true) :
    receiveFlowControl fc s = { s with
      lastFlowControlFrame := some fc, timerRxCF := ⟨true, s.clock, 1000 * s.C.cfTimeoutMs⟩ } :=
  if_pos ⟨h, hlistens⟩

end

/-! ### The statements on the frame kinds -/

/-- Settles O17: both forms run R235. -/
theorem singleFrameIsDelivered : Obligations.SingleFrameIsDelivered := by
  intro data s hlive
  have h := (wireOp_live (f := receiveSingle data) hlive).trans (congrArg _ (receiveSingle_eq data s))
  exact ⟨h, h⟩

/-- Settles O18: both forms run R236, which the length of the chunk decides. -/
theorem firstFrameStartsOrCompletes : Obligations.FirstFrameStartsOrCompletes := by
  intro L data s hlive
  have hrun := wireOp_live (f := receiveFirst L data) hlive
  refine ⟨fun hle => ?_, fun hlt => ?_⟩
  · rw [receiveFirst_of_le hle] at hrun
    exact ⟨hrun, hrun⟩
  · rw [receiveFirst_of_lt hlt] at hrun
    exact ⟨hrun, hrun⟩

/-- Settles O19: the two branches of R237 and R238. -/
theorem consecutiveFrameViolations : Obligations.ConsecutiveFrameViolations := by
  intro sn data s hlive
  have hrun := wireOp_live (f := receiveConsecutive sn data) hlive
  refine ⟨fun hidle => ?_, fun hwait hsn => ?_⟩
  · rw [receiveConsecutive_of_idle hidle] at hrun
    exact hrun
  · rw [receiveConsecutive_of_ne hwait hsn] at hrun
    exact hrun

/-- Settles O20: the expected number leads to R240, whose three cases have exclusive conditions. -/
theorem consecutiveFrameAccepted : Obligations.ConsecutiveFrameAccepted := by
  intro data s hlive hwait
  have hrun := wireOp_live (f := receiveConsecutive s.rxSeqNum data) hlive
  rw [receiveConsecutive_of_expected hwait] at hrun
  obtain ⟨hcomplete, e⟩ | ⟨hmore, hfull, e⟩ | ⟨hmore, hfull, e⟩ := acceptConsecutive_cases data s <;> rw [e] at hrun
  · exact ⟨fun _ => hrun, fun h => absurd hcomplete h, fun h => absurd hcomplete h⟩
  · exact ⟨fun h => absurd hmore (Nat.not_lt.2 h), fun _ _ => hrun, fun _ h => absurd hfull h⟩
  · exact ⟨fun h => absurd hmore (Nat.not_lt.2 h), fun _ h => absurd h hfull, fun _ _ => hrun⟩

/-- Settles O21: in `Idle`, and for an Overflow, only the mailbox is written; in `WaitCF` the other two arm the timer. -/
theorem flowControlFrameIntoMailbox : Obligations.FlowControlFrameIntoMailbox := by
  intro bs u s hlive
  have hrun (st : FlowStatus) := wireOp_live (f := receiveFlowControl ⟨st, bs, u⟩) hlive
  refine ⟨?_, fun hidle => ?_, fun hwait => ?_⟩
  · exact (hrun .overflow).trans (congrArg _ (receiveFlowControl_of_overflow rfl s))
  · exact ⟨(hrun .continueToSend).trans (congrArg _ (receiveFlowControl_of_idle hidle _)),
      (hrun .wait).trans (congrArg _ (receiveFlowControl_of_idle hidle _))⟩
  · exact ⟨(hrun .continueToSend).trans (congrArg _ (receiveFlowControl_of_waitCF hwait rfl)),
      (hrun .wait).trans (congrArg _ (receiveFlowControl_of_waitCF hwait rfl))⟩

end Sys2Proof.Machine
end

section
/-! The receive phase by what it is offered: a frame that decodes runs its instruction, anything else leaves the timeout check
alone (R230 to R232); and what the phase never writes (R280). -/

namespace Sys2Proof.Machine

/-! ### The timeout check -/

theorem expired_iff_deadlinePassed (T : Timer) (now : Nat) : expired T now = true ↔ deadlinePassed T now := expired_iff T now

/-- R232, spelled out, is the model's timeout check at the start of the operation. -/
theorem afterCfTimeout_iff {now : Nat} {s t : State} : AfterCfTimeout now s t ↔ t = checkCfTimeout (atOp now s) := by
  have hcond : (s.rxState = .waitCF ∧ deadlinePassed s.timerRxCF now) ↔
      ((atOp now s).rxState = .waitCF ∧ expired (atOp now s).timerRxCF (atOp now s).clock = true) :=
    and_congr_right fun _ => (expired_iff_deadlinePassed _ _).symm
  rw [AfterCfTimeout, hcond]
  obtain ⟨e, h⟩ | ⟨e, h⟩ := checkCfTimeout_cases (atOp now s) <;> rw [e]
  · exact ⟨fun ⟨_, hkept⟩ => hkept h, fun ht => ⟨fun h' => absurd h' h, fun _ => ht⟩⟩
  · exact ⟨fun ⟨hreset, _⟩ => hreset h, fun ht => ⟨fun _ => ht, fun h' => absurd h h'⟩⟩

theorem checkCfTimeout_withEvents (es : List Event) (s : State) :
    checkCfTimeout (withEvents es s) = withEvents es (checkCfTimeout s) := by
  unfold checkCfTimeout
  rw [show (withEvents es s).rxState = s.rxState from rfl, show (withEvents es s).timerRxCF = s.timerRxCF from rfl,
    show (withEvents es s).clock = s.clock from rfl]
  split
  · simp [abortRx, rxReset, raise, withEvents]
  · rfl

@[simp] theorem checkCfTimeout_live (s : State) : (checkCfTimeout s).live = s.live := by
  obtain ⟨e, -⟩ | ⟨e, -⟩ := checkCfTimeout_cases s <;> rw [e]
  rfl

@[simp] theorem checkCfTimeout_inbound (s : State) : (checkCfTimeout s).inbound = s.inbound := by
  obtain ⟨e, -⟩ | ⟨e, -⟩ := checkCfTimeout_cases s <;> rw [e]
  rfl

/-! ### The phase by what it is offered -/

@[simp] theorem processReceive_none (s : State) : processReceive none s = checkCfTimeout s := rfl

section
variable {f : RawFrame} {s : State}

theorem processReceive_of_not_forMe (h : isForMe s.C.addr f = false) : processReceive (some f) s = checkCfTimeout s := by
  simp only [processReceive, Option.filter_some_neg h]

theorem processReceive_of_parse_error {e : ParseError} (hfor : isForMe s.C.addr f = true)
    (hparse : parse f.data (rxPrefixSize s.C.addr) = .error e) :
    processReceive (some f) s = checkCfTimeout (raise (.frameParseError e) s) := by
  simp only [processReceive, Option.filter_some_pos hfor, hparse]

theorem processReceive_of_parse_ok {g : Frame} (hfor : isForMe s.C.addr f = true)
    (hparse : parse f.data (rxPrefixSize s.C.addr) = .ok g) :
    processReceive (some f) s = receiveFrame g (checkCfTimeout s) := by
  simp only [processReceive, Option.filter_some_pos hfor, hparse]

end

theorem decodeWire_eq_ok {d : Bytes} {p : Nat} {i : Instr} (h : decodeWire d p = .ok i) :
    ∃ g, parse d p = .ok g ∧ i = wireInstr (pciLength d p) g := by
  simp only [decodeWire] at h
  split at h
  · simp at h
  · rename_i g hparse
    exact ⟨g, hparse, (Except.ok.inj h).symm⟩

/-- Both PCI forms of a frame kind have the meaning of the kind (R105: the form is not recorded). -/
theorem exec_wireInstr (pci : Nat) (g : Frame) (s : State) : exec (wireInstr pci g) s = wireOp (receiveFrame g) s := by
  cases g with
  | single data => rw [wireInstr]; split <;> rfl
  | first L data => rw [wireInstr]; split <;> rfl
  | consecutive sn data => rfl
  | flowControl fc =>
    obtain ⟨st, bs, u⟩ := fc
    cases st with
    | continueToSend => rfl
    | wait => rfl
    | overflow => rfl

/-! ### The statements on the phase -/

/-- Settles O22: the phase dispatches the parsed frame at the state the check leaves, and so does the decoded instruction. -/
theorem receivedFrameRunsItsInstruction : Obligations.ReceivedFrameRunsItsInstruction := by
  intro now f i s t hcan hfor hdecode ht
  obtain rfl := afterCfTimeout_iff.1 ht
  obtain ⟨g, hparse, rfl⟩ := decodeWire_eq_ok hdecode
  have hlive : (checkCfTimeout (atOp now s)).live = true := (checkCfTimeout_live _).trans hcan.1
  rw [exec_wireInstr, wireOp_live hlive]
  exact execProcessRx_eq_next_iff.2 ⟨hcan, (processReceive_of_parse_ok (s := atOp now s) hfor hparse).symm⟩

/-- Settles O23: the check does not read the events, so the parse event stands before its own. -/
theorem receivePhaseWithoutUsableFrame : Obligations.ReceivePhaseWithoutUsableFrame := by
  intro now s t ht
  obtain rfl := afterCfTimeout_iff.1 ht
  refine ⟨fun hcan => ?_, fun f hcan hfor => ?_, fun f e hcan hfor hparse => ?_⟩
  · exact execProcessRx_eq_next_iff.2 ⟨hcan, (processReceive_none _).symm⟩
  · exact execProcessRx_eq_next_iff.2 ⟨hcan, (processReceive_of_not_forMe (s := atOp now s) hfor).symm⟩
  · refine execProcessRx_eq_next_iff.2 ⟨hcan, ?_⟩
    rw [processReceive_of_parse_error (s := atOp now s) hfor hparse]
    exact (checkCfTimeout_withEvents [.frameParseError e] (atOp now s)).symm

/-- Settles O24: the frame rule of the receive phase, at the state the operation finds. -/
theorem receivePhaseLeavesTransmitSide : Obligations.ReceivePhaseLeavesTransmitSide := by
  intro now rx s t ht
  obtain ⟨-, rfl⟩ := execProcessRx_eq_next_iff.1 ht
  obtain ⟨_, _, _, _, _, _, _, _, _, _, e⟩ := processReceive_frame rx (atOp now s)
  rw [e]
  exact ⟨⟨rfl, rfl, rfl, rfl, rfl, rfl, rfl, rfl, rfl, rfl, rfl⟩, rfl, rfl, rfl, rfl, rfl, rfl⟩

end Sys2Proof.Machine
end

section
/-! The transition table of the receive machine (R246) and what it delivers (R247): first for one frame, then for a phase, in
which the timeout check comes before the frame. -/

namespace Sys2Proof.Machine

/-! ### The receive state -/

/-- R246: the frames that leave a reassembly in progress: flow control, and the expected ConsecutiveFrame with bytes still
missing after it. -/
def KeepsReassembly (g : Frame) (s : State) : Prop :=
  (∃ fc, g = .flowControl fc) ∨
  ∃ data, g = .consecutive s.rxSeqNum data ∧ s.rxBuffer.length + data.length < s.rxFrameLen

theorem receiveFirst_waitCF_iff (L : Nat) (data : Bytes) (s : State) :
    (receiveFirst L data s).rxState = .waitCF ↔ data.length < L := by
  obtain hle | hlt := le_or_gt L data.length
  · rw [receiveFirst_of_le hle]
    simp [hle]
  · rw [receiveFirst_of_lt hlt]
    simp [hlt]

theorem acceptConsecutive_waitCF_iff {s : State} (h : s.rxState = .waitCF) (data : Bytes) :
    (acceptConsecutive data s).rxState = .waitCF ↔ s.rxBuffer.length + data.length < s.rxFrameLen := by
  obtain ⟨hle, e⟩ | ⟨hlt, -, e⟩ | ⟨hlt, -, e⟩ := acceptConsecutive_cases data s <;> rw [e]
  · simp [hle]
  · simp [h, hlt]
  · simp [h, hlt]

theorem receiveConsecutive_waitCF_iff (sn : BitVec 4) (data : Bytes) (s : State) :
    (receiveConsecutive sn data s).rxState = .waitCF ↔
      s.rxState = .waitCF ∧ sn = s.rxSeqNum ∧ s.rxBuffer.length + data.length < s.rxFrameLen := by
  cases h : s.rxState with
  | idle => simp [receiveConsecutive_of_idle h]
  | waitCF =>
    by_cases hsn : sn = s.rxSeqNum
    · subst hsn
      simp [receiveConsecutive_of_expected h, acceptConsecutive_waitCF_iff h]
    · simp [receiveConsecutive_of_ne h hsn, hsn]

@[simp] theorem receiveFlowControl_rxState (fc : FlowControl) (s : State) :
    (receiveFlowControl fc s).rxState = s.rxState := by
  rw [receiveFlowControl]
  split <;> rfl

/-- R246, the rows of the frame kinds. -/
theorem receiveFrame_waitCF_iff (g : Frame) (s : State) :
    (receiveFrame g s).rxState = .waitCF ↔
      (∃ L data, g = .first L data ∧ data.length < L) ∨ (s.rxState = .waitCF ∧ KeepsReassembly g s) := by
  cases g with
  | single data => simp [receiveFrame, receiveSingle_eq, KeepsReassembly]
  | first L data => simp [receiveFrame, receiveFirst_waitCF_iff, KeepsReassembly]
  | consecutive sn data => simp [receiveFrame, receiveConsecutive_waitCF_iff, KeepsReassembly, and_assoc]
  | flowControl fc => simp [receiveFrame, KeepsReassembly]

/-- A reassembly still in progress after the timeout check is one it did not touch. -/
theorem checkCfTimeout_of_waitCF {s : State} (h : (checkCfTimeout s).rxState = .waitCF) : checkCfTimeout s = s := by
  obtain ⟨e, -⟩ | ⟨e, -⟩ := checkCfTimeout_cases s
  · exact e
  · simp [e] at h

/-- R246, the row of the timeout. -/
theorem checkCfTimeout_atOp_waitCF_iff (now : Nat) (s : State) :
    (checkCfTimeout (atOp now s)).rxState = .waitCF ↔ s.rxState = .waitCF ∧ ¬deadlinePassed s.timerRxCF now := by
  obtain ⟨e, h⟩ | ⟨e, hwait, hexpired⟩ := checkCfTimeout_cases (atOp now s) <;> rw [e]
  · exact ⟨fun hwait => ⟨hwait, fun hd => h ⟨hwait, (expired_iff_deadlinePassed _ _).2 hd⟩⟩, And.left⟩
  · exact ⟨fun hidle => by simp at hidle, fun ⟨_, hd⟩ => absurd ((expired_iff_deadlinePassed _ _).1 hexpired) hd⟩

/-- R246 for a frame the phase dispatches: the rows of its kind, after the row of the timeout. -/
theorem receiveFrame_checkCfTimeout_waitCF_iff (g : Frame) (now : Nat) (s : State) :
    (receiveFrame g (checkCfTimeout (atOp now s))).rxState = .waitCF ↔
      (∃ L data, g = .first L data ∧ data.length < L) ∨
      (s.rxState = .waitCF ∧ ¬deadlinePassed s.timerRxCF now ∧ KeepsReassembly g s) := by
  rw [receiveFrame_waitCF_iff, ← and_assoc (a := s.rxState = .waitCF), ← checkCfTimeout_atOp_waitCF_iff]
  refine or_congr_right (and_congr_right fun hwait => ?_)
  rw [checkCfTimeout_of_waitCF hwait]
  rfl

/-- R231, R232: nothing the phase could dispatch is offered: no frame, one for someone else, or one that does not parse. -/
def NothingUsable (rx : Option RawFrame) (s : State) : Prop :=
  ∀ f, rx = some f → isForMe s.C.addr f = true → ∀ g, parse f.data (rxPrefixSize s.C.addr) ≠ .ok g

theorem exists_parse_ok_of_usable {rx : Option RawFrame} {s : State} (h : ¬NothingUsable rx s) :
    ∃ f g, rx = some f ∧ isForMe s.C.addr f = true ∧ parse f.data (rxPrefixSize s.C.addr) = .ok g := by
  simpa [NothingUsable] using h

/-- The timeout check does not read the events. -/
theorem checkCfTimeout_raise_rxState (e : Event) (s : State) :
    (checkCfTimeout (raise e s)).rxState = (checkCfTimeout s).rxState := by
  simp only [checkCfTimeout, apply_ite State.rxState]
  rfl

theorem processReceive_rxState_of_nothingUsable {rx : Option RawFrame} {s : State} (h : NothingUsable rx s) :
    (processReceive rx s).rxState = (checkCfTimeout s).rxState := by
  obtain ⟨e, -⟩ | ⟨f, x, -, -, -, e⟩ | ⟨f, g, rfl, hfor, hparse, -⟩ := processReceive_cases rx s
  · rw [e]
  · rw [e, checkCfTimeout_raise_rxState]
  · exact absurd hparse (h f rfl hfor g)

/-- Settles O26: without a usable frame the row of the timeout, with one those of its kind after it. -/
theorem receiveTransitions : Obligations.ReceiveTransitions := by
  intro now rx s t ht
  obtain ⟨-, rfl⟩ := execProcessRx_eq_next_iff.1 ht
  by_cases h : NothingUsable rx s
  · rw [processReceive_rxState_of_nothingUsable (s := atOp now s) h, checkCfTimeout_atOp_waitCF_iff]
    constructor
    · rintro ⟨hwait, hearly⟩
      exact .inr ⟨hwait, hearly, .inl h⟩
    · rintro (⟨f, L, data, hrx, hfor, hparse, -⟩ | ⟨hwait, hearly, -⟩)
      · exact absurd hparse (h f hrx hfor _)
      · exact ⟨hwait, hearly⟩
  · obtain ⟨f, g, rfl, hfor, hparse⟩ := exists_parse_ok_of_usable h
    rw [processReceive_of_parse_ok (s := atOp now s) hfor hparse, receiveFrame_checkCfTimeout_waitCF_iff]
    simp [hparse, hfor, KeepsReassembly]

/-! ### Delivery -/

/-- R247: the frame `g` completes the message `m` in the state `s`. -/
def Completes (g : Frame) (s : State) (m : Bytes) : Prop :=
  g = .single m ∨
  (∃ L data, g = .first L data ∧ m = data.take L ∧ m.length = L) ∨
  (∃ data k, g = .consecutive s.rxSeqNum data ∧ s.rxState = .waitCF ∧
    m = s.rxBuffer ++ data.take k ∧ m.length = s.rxFrameLen)

/-- A frame leaves the inbound queue alone, or puts the message it completes at its tail and ends the reassembly. -/
def DeliversWhole (g : Frame) (s t : State) : Prop :=
  t.inbound = s.inbound ∨ ∃ m, Completes g s m ∧ t.inbound = s.inbound ++ [m] ∧ t.rxState = .idle

theorem deliversWhole_receiveFirst (L : Nat) (data : Bytes) (s : State) :
    DeliversWhole (.first L data) s (receiveFirst L data s) := by
  obtain hle | hlt := le_or_gt L data.length
  · rw [receiveFirst_of_le hle]
    exact .inr ⟨data.take L, .inr (.inl ⟨L, data, rfl, rfl, by simp [hle]⟩), rfl, rfl⟩
  · rw [receiveFirst_of_lt hlt]
    exact .inl rfl

/-- The last ConsecutiveFrame: exactly the missing bytes are taken. -/
theorem deliversWhole_acceptConsecutive {s : State} (h : RxInv s) (hwait : s.rxState = .waitCF) (data : Bytes) :
    DeliversWhole (.consecutive s.rxSeqNum data) s (acceptConsecutive data s) := by
  have hmissing := h.waiting hwait
  obtain ⟨hle, e⟩ | ⟨-, -, e⟩ | ⟨-, -, e⟩ := acceptConsecutive_cases data s <;> rw [e]
  · have hlength : (s.rxBuffer ++ data.take (s.rxFrameLen - s.rxBuffer.length)).length = s.rxFrameLen := by
      rw [List.length_append, List.length_take]
      omega
    exact .inr ⟨_, .inr (.inr ⟨data, _, rfl, hwait, rfl, hlength⟩), rfl, rfl⟩
  · exact .inl rfl
  · exact .inl rfl

theorem deliversWhole_receiveFrame {s : State} (h : RxInv s) (g : Frame) : DeliversWhole g s (receiveFrame g s) := by
  cases g with
  | single data =>
    rw [receiveFrame, receiveSingle_eq]
    exact .inr ⟨data, .inl rfl, rfl, rfl⟩
  | first L data => exact deliversWhole_receiveFirst L data s
  | consecutive sn data =>
    rw [receiveFrame]
    cases hs : s.rxState with
    | idle =>
      rw [receiveConsecutive_of_idle hs]
      exact .inl rfl
    | waitCF =>
      by_cases hsn : sn = s.rxSeqNum
      · subst hsn
        rw [receiveConsecutive_of_expected hs]
        exact deliversWhole_acceptConsecutive h hs data
      · rw [receiveConsecutive_of_ne hs hsn]
        exact .inl rfl
  | flowControl fc =>
    rw [receiveFrame, receiveFlowControl]
    split <;> exact .inl rfl

/-- The timeout check only takes a reassembly away. -/
theorem completes_of_checkCfTimeout {g : Frame} {s : State} {m : Bytes} (h : Completes g (checkCfTimeout s) m) :
    Completes g s m := by
  obtain h | h | ⟨data, k, hg, hwait, hm⟩ := h
  · exact .inl h
  · exact .inr (.inl h)
  · have e := checkCfTimeout_of_waitCF hwait
    rw [e] at hg hwait hm
    exact .inr (.inr ⟨data, k, hg, hwait, hm⟩)

/-- Settles O27: a phase delivers what its frame completes, after a timeout check that delivers nothing. -/
theorem deliveryIsWhole : Obligations.DeliveryIsWhole := by
  intro now rx s t hinv ht
  obtain ⟨-, rfl⟩ := execProcessRx_eq_next_iff.1 ht
  obtain ⟨e, -⟩ | ⟨f, x, -, -, -, e⟩ | ⟨f, g, rfl, hfor, hparse, e⟩ := processReceive_cases rx (atOp now s) <;> rw [e]
  · exact .inl (checkCfTimeout_inbound _)
  · exact .inl (checkCfTimeout_inbound _)
  · obtain hkept | ⟨m, hm, hinbound, hidle⟩ :=
      deliversWhole_receiveFrame (rxInv_checkCfTimeout (inv_atOp hinv now).rx) g
    · exact .inl (hkept.trans (checkCfTimeout_inbound _))
    · rw [checkCfTimeout_inbound] at hinbound
      refine .inr ⟨f, m, rfl, hfor, hinbound, hidle, ?_⟩
      obtain rfl | ⟨L, data, rfl, hfirst⟩ | ⟨data, k, rfl, hlast⟩ := completes_of_checkCfTimeout hm
      · exact .inl hparse
      · exact .inr (.inl ⟨L, data, hparse, hfirst⟩)
      · exact .inr (.inr ⟨data, k, hparse, hlast⟩)

end Sys2Proof.Machine
end

section
/-! PROCESS_TX as an equation: the outcome of the transmit phase (R303), and what its steps 1 to 3 do (R262 to R269). A call
that goes on after step 2 or 3 does what it would do from the state that step leaves, apart from the events. -/

namespace Sys2Proof.Machine

/-- The outcome of a process operation whose transmit phase answers `r` (R300, R303). -/
def phaseOutcome : Except Fault State → Result
  | .ok t => .next t
  | .error f => .fault f

theorem exec_processTx {now : Nat} {s : State} (hcan : canProcess now none s) :
    exec (.processTx now) s = phaseOutcome (processTransmit (atOp now s)) := by
  obtain ⟨hlive, hframe, hclock⟩ := hcan
  have hbegin : beginProcess now none s = .ok (atOp now s) := beginProcess_ok_iff.2 ⟨hlive, hframe, hclock, rfl⟩
  simp only [exec, execProcessTx, hbegin]
  cases processTransmit (atOp now s) <;> rfl

/-! ### Events raised before the rest of the call -/

theorem eventsBefore_phaseOutcome (es : List Event) (r : Except Fault State) :
    phaseOutcome (r.map (withEvents es)) = eventsBefore es (phaseOutcome r) := by
  cases r <;> rfl

@[simp] theorem eventsBefore_nil (r : Result) : eventsBefore [] r = r := by
  cases r <;> rfl

/-- A call whose first steps leave what a call from `u` finds, with `es` raised, does what the call from `u` does after `es`. -/
theorem exec_processTx_goesOn {now : Nat} {es : List Event} {s u : State} (hs : canProcess now none s)
    (hu : canProcess now none u)
    (hphase : processTransmit (atOp now s) = processTransmit (withEvents es (atOp now u))) :
    exec (.processTx now) s = eventsBefore es (exec (.processTx now) u) := by
  rw [exec_processTx hs, exec_processTx hu, hphase, processTransmit_withEvents, eventsBefore_phaseOutcome]

/-! ### Step 1 -/

theorem processTransmit_of_pending {s : State} (h : s.pendingFlowControlTx = true) :
    processTransmit s = sendFlowControl s :=
  if_pos h

theorem processTransmit_of_not_pending {s : State} (h : s.pendingFlowControlTx = false) :
    processTransmit s = driveState (checkFcTimeout (serveMailbox s)) :=
  if_neg (by simp [h])

/-! ### Step 2 -/

section
variable {s : State} {fc : FlowControl}

theorem serveMailbox_of_none (hmail : s.lastFlowControlFrame = none) : serveMailbox s = s := by
  simp only [serveMailbox, hmail]

theorem serveMailbox_of_some (hmail : s.lastFlowControlFrame = some fc) :
    serveMailbox s = actOnFlowControl fc (clearMailbox s) := by
  simp only [serveMailbox, hmail]

theorem actOnFlowControl_of_idle (hidle : s.txState = .idle) :
    actOnFlowControl fc s = raise (.unexpectedFlowControl fc.flowStatus) s :=
  if_pos hidle

section
variable (hsending : s.txState ≠ .idle)
include hsending

theorem actOnFlowControl_of_continueToSend (hstatus : fc.flowStatus = .continueToSend) :
    actOnFlowControl fc s = adoptGrant fc s := by
  rw [actOnFlowControl, if_neg hsending, hstatus]

theorem actOnFlowControl_of_wait (hstatus : fc.flowStatus = .wait) : actOnFlowControl fc s = countWait s := by
  rw [actOnFlowControl, if_neg hsending, hstatus]

theorem actOnFlowControl_of_overflow (hstatus : fc.flowStatus = .overflow) :
    actOnFlowControl fc s = abortTx .overflowError s := by
  rw [actOnFlowControl, if_neg hsending, hstatus]

end

theorem countWait_of_le (h : s.wftCounter + 1 ≤ s.C.wftMax) :
    countWait s =
      { s with wftCounter := s.wftCounter + 1, timerRxFC := ⟨true, s.clock, 1000 * s.C.fcTimeoutMs⟩ } :=
  if_neg (Nat.not_lt.2 h)

theorem countWait_of_lt (h : s.C.wftMax < s.wftCounter + 1) :
    countWait s =
      abortTx (.maxWaitFramesExceeded (s.wftCounter + 1)) { s with wftCounter := s.wftCounter + 1 } :=
  if_pos h

end

/-- R264: what was in the mailbox is gone. -/
@[simp] theorem serveMailbox_lastFlowControlFrame (s : State) : (serveMailbox s).lastFlowControlFrame = none := by
  rcases serveMailbox_cases s with
    ⟨hmail, e⟩ | ⟨fc, -, ⟨-, e⟩ | ⟨-, -, e⟩ | ⟨-, -, -, e⟩ | ⟨-, -, -, e⟩ | ⟨-, -, e⟩⟩ <;> rw [e]
  · exact hmail
  all_goals rfl

@[simp] theorem serveMailbox_pendingFlowControlTx (s : State) :
    (serveMailbox s).pendingFlowControlTx = s.pendingFlowControlTx := by
  obtain ⟨_, _, _, _, _, _, _, _, _, _, _, _, e⟩ := serveMailbox_frame s
  rw [e]

/-- A call that has served its mailbox goes on as one that finds it empty. -/
theorem processTransmit_serveMailbox {s : State} (hpending : s.pendingFlowControlTx = false) :
    processTransmit (serveMailbox s) = processTransmit s := by
  rw [processTransmit_of_not_pending hpending,
    processTransmit_of_not_pending ((serveMailbox_pendingFlowControlTx s).trans hpending),
    serveMailbox_of_none (serveMailbox_lastFlowControlFrame s)]

/-- A call that finds `fc` goes on from what acting on it leaves. -/
theorem exec_processTx_of_finds {now : Nat} {fc : FlowControl} {es : List Event} {s u : State}
    (hcan : canProcess now none s) (hfinds : finds fc s) (hu : canProcess now none u)
    (hact : actOnFlowControl fc (clearMailbox (atOp now s)) = withEvents es (atOp now u)) :
    exec (.processTx now) s = eventsBefore es (exec (.processTx now) u) := by
  obtain ⟨hpending, hmail⟩ := hfinds
  refine exec_processTx_goesOn hcan hu ?_
  rw [← hact, ← serveMailbox_of_some (s := atOp now s) hmail, processTransmit_serveMailbox (s := atOp now s) hpending]

/-! ### Step 3 -/

section
variable {s : State}

theorem checkFcTimeout_of_expired (h : expired s.timerRxFC s.clock = true) :
    checkFcTimeout s = abortTx .timeoutFC s :=
  if_pos h

theorem checkFcTimeout_of_not_expired (h : expired s.timerRxFC s.clock = false) : checkFcTimeout s = s :=
  if_neg (by simp [h])

end

/-! ### The statements on steps 2 and 3 -/

/-- Settles O29: the state given is the one the adoption leaves, with no event. -/
theorem grantIsAdopted : Obligations.GrantIsAdopted := by
  intro now bs u s hcan hfinds hsending
  refine .trans ?_ (eventsBefore_nil _)
  refine exec_processTx_of_finds hcan hfinds hcan ?_
  exact actOnFlowControl_of_continueToSend (s := clearMailbox (atOp now s)) hsending rfl

/-- Settles O30: the count is compared after the increment; the reset of an abort clears it again. -/
theorem waitIsCountedOrAborts : Obligations.WaitIsCountedOrAborts := by
  intro now bs u s hcan hfinds hsending
  have hwait := actOnFlowControl_of_wait (fc := ⟨.wait, bs, u⟩) (s := clearMailbox (atOp now s)) hsending rfl
  refine ⟨fun hle => ?_, fun hlt => ?_⟩
  · refine .trans ?_ (eventsBefore_nil _)
    refine exec_processTx_of_finds hcan hfinds hcan ?_
    exact hwait.trans (countWait_of_le (s := clearMailbox (atOp now s)) hle)
  · refine exec_processTx_of_finds hcan hfinds hcan ?_
    exact hwait.trans (countWait_of_lt (s := clearMailbox (atOp now s)) hlt)

/-- Settles O31: the abort of R267, and the warning of R268 with its status. -/
theorem overflowAbortsAndIdleWarns : Obligations.OverflowAbortsAndIdleWarns := by
  intro now fc s hcan hfinds
  refine ⟨fun hsending hstatus => ?_, fun hidle => ?_⟩
  · refine exec_processTx_of_finds hcan hfinds hcan ?_
    exact actOnFlowControl_of_overflow (s := clearMailbox (atOp now s)) hsending hstatus
  · refine exec_processTx_of_finds hcan hfinds hcan ?_
    exact actOnFlowControl_of_idle (s := clearMailbox (atOp now s)) hidle

/-- Settles O32: the abort stops the timer, so a call from the state it leaves does not abort again. -/
theorem flowControlTimeoutAborts : Obligations.FlowControlTimeoutAborts := by
  intro now s hcan hpending hmail hdeadline
  have habort : checkFcTimeout (atOp now s) = withEvents [.timeoutFC] (atOp now (txReset s)) :=
    checkFcTimeout_of_expired ((expired_iff_deadlinePassed _ _).2 hdeadline)
  have hstopped : checkFcTimeout (withEvents [.timeoutFC] (atOp now (txReset s))) =
      withEvents [.timeoutFC] (atOp now (txReset s)) :=
    checkFcTimeout_of_not_expired (expired_stopTimer _)
  refine exec_processTx_goesOn hcan hcan ?_
  rw [processTransmit_of_not_pending (s := atOp now s) hpending, serveMailbox_of_none (s := atOp now s) hmail, habort,
    processTransmit_of_not_pending (s := withEvents [.timeoutFC] (atOp now (txReset s))) hpending,
    serveMailbox_of_none (s := withEvents [.timeoutFC] (atOp now (txReset s))) hmail, hstopped]

end Sys2Proof.Machine
end

section
/-! Every frame the transmit phase builds fits (R275): what `encodeRaw` makes of each, under a legal configuration. -/

namespace Sys2Proof.Machine

/-! ### The prefix, the PCI and the capacity -/

section
variable {C : ConfigRegs}

theorem ConfigInv.maxDataLength_eq (hC : ConfigInv C) : C.maxDataLength = 8 ∨ C.maxDataLength = 64 := hC.dataLength

theorem ConfigInv.txPayloadPrefix_length_le (hC : ConfigInv C) : (txPayloadPrefix C.addr).length ≤ 1 :=
  (txPayloadPrefix_length hC.address).2

/-- R270, spelled out. -/
theorem fitsSingle_iff (C : ConfigRegs) (L : Nat) :
    fitsSingle C L = true ↔ (txPayloadPrefix C.addr).length + (if L ≤ 7 then 1 else 2) + L ≤ C.maxDataLength :=
  decide_eq_true_iff

/-- The PCI and data of a SingleFrame, in the form its length has (R126). -/
def singleBody (m : Bytes) : Bytes := if m.length ≤ 7 then sfBytes m else sfEscBytes m

/-- The PCI of a FirstFrame, in the form its length has (R126). -/
def firstPci (L : Nat) : Bytes := if L ≤ 4095 then ffBytes L [] else ffEscBytes L []

theorem singleBody_length (m : Bytes) : (singleBody m).length = (if m.length ≤ 7 then 1 else 2) + m.length := by
  rw [singleBody]
  split
  · rw [sfBytes, List.length_cons, Nat.add_comm]
  · rw [sfEscBytes, List.length_cons, List.length_cons, Nat.add_assoc, Nat.add_comm]

theorem firstPci_length (L : Nat) : (firstPci L).length = if L ≤ 4095 then 2 else 6 := by
  rw [firstPci]
  split <;> rfl

theorem serialize_single {m : Bytes} (h1 : 1 ≤ m.length) (h2 : m.length ≤ 255) :
    serialize (.single m) = some (singleBody m) := by
  rw [singleBody]
  split
  · exact serialize_single_short h1 ‹_›
  · exact serialize_single_escape (by omega) h2

theorem serialize_first {L : Nat} (h1 : 1 ≤ L) (h2 : L ≤ Config.msgLenMax) (data : Bytes) :
    serialize (.first L data) = some (firstPci L ++ data) := by
  rw [firstPci]
  split
  · exact serialize_first_short h1 ‹_› data
  · exact serialize_first_escape (by omega) h2 data

/-! ### The four frames -/

variable (hC : ConfigInv C)
include hC

/-- Step 1: at most 4 of 8 bytes. -/
theorem encodeRaw_ownFlowControl :
    encodeRaw C (.flowControl ⟨.continueToSend, C.blocksize, 1000 * C.stminMs.toNat⟩) =
      .ok (emitted C [0x30, C.blocksize, C.stminMs.setWidth 8]) := by
  refine encodeRaw_of_fits (serialize_ownFlowControl C) hC.maxDataLength_le ?_
  have hprefix := hC.txPayloadPrefix_length_le
  have hcapacity := hC.maxDataLength_eq
  rw [List.length_append]
  simp only [List.length_cons, List.length_nil]
  omega

/-- R272: the fit test is the `require` of R212. -/
theorem encodeRaw_single {m : Bytes} (hm : 1 ≤ m.length) (hfits : fitsSingle C m.length = true) :
    encodeRaw C (.single m) = .ok (emitted C (singleBody m)) := by
  rw [fitsSingle_iff] at hfits
  have hcapacity := hC.maxDataLength_le
  refine encodeRaw_of_fits (serialize_single hm (by omega)) hcapacity ?_
  rwa [List.length_append, singleBody_length, ← Nat.add_assoc]

/-- R271: prefix, PCI and first chunk make up the capacity exactly. -/
theorem firstFrame_length {m : Bytes} (hlong : fitsSingle C m.length = false) :
    (txPayloadPrefix C.addr ++ (firstPci m.length ++ m.take (firstChunk C m.length))).length = C.maxDataLength := by
  have hchunk := (firstChunk_lt hC hlong).1
  have hprefix := hC.txPayloadPrefix_length_le
  have hcapacity := hC.maxDataLength_eq
  rw [List.length_append, List.length_append, firstPci_length, List.length_take, Nat.min_eq_left hchunk.le]
  simp only [firstChunk, Config.ffDlShortMax]
  split <;> omega

theorem encodeRaw_first {m : Bytes} (hm : m.length ≤ Config.msgLenMax) (hlong : fitsSingle C m.length = false) :
    encodeRaw C (.first m.length (m.take (firstChunk C m.length))) =
      .ok (emitted C (firstPci m.length ++ m.take (firstChunk C m.length))) := by
  have hchunk := (firstChunk_lt hC hlong).1
  exact encodeRaw_of_fits (serialize_first (by omega) hm _) hC.maxDataLength_le (firstFrame_length hC hlong).le

/-- R274: the chunk is what prefix and PCI leave of the capacity. -/
theorem encodeRaw_consecutive (sn : BitVec 4) (buffer : Bytes) :
    encodeRaw C (.consecutive sn (buffer.take (consecutiveChunk C))) =
      .ok (emitted C (cfBytes sn (buffer.take (consecutiveChunk C)))) := by
  refine encodeRaw_of_fits (serialize_consecutive ..) hC.maxDataLength_le ?_
  have hprefix := hC.txPayloadPrefix_length_le
  have hcapacity := hC.maxDataLength_eq
  rw [List.length_append, cfBytes, List.length_cons, List.length_take, consecutiveChunk]
  omega

/-- R125: a body that fills the capacity is not padded. -/
theorem emitted_data_of_full {body : Bytes} (hfull : (txPayloadPrefix C.addr ++ body).length = C.maxDataLength) :
    (emitted C body).data = txPayloadPrefix C.addr ++ body := by
  have hpad : padTo C.maxDataLength = C.maxDataLength := by
    obtain h | h := hC.maxDataLength_eq <;> rw [h] <;> rfl
  simp only [emitted, hfull, hpad, Nat.sub_self, List.replicate_zero, List.append_nil]

end

end Sys2Proof.Machine
end

section
/-! Step 4 of the transmit phase (R270 to R274): what it does in each state, and the statements on it. -/

namespace Sys2Proof.Machine

section
variable {s : State}

theorem driveState_of_idle (h : s.txState = .idle) : driveState s = startNext s := by simp only [driveState, h]

theorem driveState_of_waitFC (h : s.txState = .waitFC) : driveState s = .ok s := by simp only [driveState, h]

theorem driveState_of_pacing (h : s.txState = .transmit) (hearly : expired s.timerTxStmin s.clock = false) :
    driveState s = .ok s := by
  simp [driveState, h, hearly]

theorem driveState_of_elapsed (h : s.txState = .transmit) (helapsed : expired s.timerTxStmin s.clock = true) :
    driveState s = emitConsecutive s := by
  simp [driveState, h, helapsed]

theorem startNext_of_empty (h : s.outbound = []) : startNext s = .ok s := by simp [startNext, h]

section
variable (hC : ConfigInv s.C) {m : Bytes} {q : List Bytes} (hqueue : s.outbound = m :: q)
include hC hqueue

theorem startNext_of_fits (hm : 1 ≤ m.length) (hfits : fitsSingle s.C m.length = true) :
    startNext s = .ok { s with outbound := q, txFrame := some (emitted s.C (singleBody m)) } := by
  simp only [startNext, hqueue, pop_cons, if_pos hfits]
  exact emit_ok (s := { s with outbound := q }) (encodeRaw_single hC hm hfits)

theorem startNext_of_not_fits (hm : m.length ≤ Config.msgLenMax) (hlong : fitsSingle s.C m.length = false) :
    startNext s = .ok { s with
      outbound := q, txFrameLen := m.length, txBuffer := m.drop (firstChunk s.C m.length), txSeqNum := 1
      txState := .waitFC, timerRxFC := ⟨true, s.clock, 1000 * s.C.fcTimeoutMs⟩
      txFrame := some (emitted s.C (firstPci m.length ++ m.take (firstChunk s.C m.length))) } := by
  simp only [startNext, hqueue, pop_cons, hlong]
  exact emit_ok (encodeRaw_first hC hm hlong)

end

/-- R275 for a ConsecutiveFrame; `emitConsecutive_cases` says what is answered. -/
theorem emitConsecutive_answers (hC : ConfigInv s.C) : ∃ t, emitConsecutive s = .ok t := by
  simp only [emitConsecutive, emit_ok (encodeRaw_consecutive hC s.txSeqNum s.txBuffer)]
  exact ⟨_, rfl⟩

theorem sendFlowControl_eq (hC : ConfigInv s.C) :
    sendFlowControl s = .ok { s with
      pendingFlowControlTx := false, timerRxCF := ⟨true, s.clock, 1000 * s.C.cfTimeoutMs⟩
      txFrame := some (emitted s.C [0x30, s.C.blocksize, s.C.stminMs.setWidth 8]) } :=
  emit_ok (s := { s with
    pendingFlowControlTx := false, timerRxCF := ⟨true, s.clock, 1000 * s.C.cfTimeoutMs⟩ }) (encodeRaw_ownFlowControl hC)

end

/-! ### The statements on steps 1 and 4 -/

theorem expired_eq_false_of_not_deadlinePassed {T : Timer} {now : Nat} (h : ¬deadlinePassed T now) : expired T now = false := by
  rwa [← expired_iff_deadlinePassed, Bool.not_eq_true] at h

/-- Nothing done in steps 1 to 3: the call is its step 4. -/
theorem processTransmit_of_reachesStepFour {now : Nat} {s : State} (h : reachesStepFour now s) :
    processTransmit (atOp now s) = driveState (atOp now s) := by
  obtain ⟨hpending, hmail, hearly⟩ := h
  rw [processTransmit_of_not_pending (s := atOp now s) hpending, serveMailbox_of_none (s := atOp now s) hmail,
    checkFcTimeout_of_not_expired (s := atOp now s) (expired_eq_false_of_not_deadlinePassed hearly)]

theorem exec_processTx_of_stepFour {now : Nat} {s t : State} (hcan : canProcess now none s) (h : reachesStepFour now s)
    (hdrive : driveState (atOp now s) = .ok t) : exec (.processTx now) s = .next t := by
  rw [exec_processTx hcan, processTransmit_of_reachesStepFour h, hdrive]
  rfl

/-- Settles O28: step 1 ends the call. -/
theorem pendingFlowControlPreempts : Obligations.PendingFlowControlPreempts := by
  intro now s hcan hC hpending
  rw [exec_processTx hcan, processTransmit_of_pending (s := atOp now s) hpending, sendFlowControl_eq (s := atOp now s) hC]
  rfl

/-- Settles O33: the three cases in which step 4 answers the state it finds. -/
theorem transmitPhaseHasNothingToSend : Obligations.TransmitPhaseHasNothingToSend := by
  intro now s hcan hreach hcases
  refine exec_processTx_of_stepFour hcan hreach ?_
  obtain ⟨hidle, hempty⟩ | hwait | ⟨htransmit, hearly⟩ := hcases
  · rw [driveState_of_idle (s := atOp now s) hidle, startNext_of_empty (s := atOp now s) hempty]
  · exact driveState_of_waitFC (s := atOp now s) hwait
  · exact driveState_of_pacing (s := atOp now s) htransmit (expired_eq_false_of_not_deadlinePassed hearly)

/-- Settles O34: the fit test of R270 passes. -/
theorem singleFrameSend : Obligations.SingleFrameSend := by
  intro now m q s hcan hC hreach hidle hqueue hm hfits
  refine exec_processTx_of_stepFour hcan hreach ?_
  rw [driveState_of_idle (s := atOp now s) hidle]
  exact startNext_of_fits (s := atOp now s) hC hqueue hm ((fitsSingle_iff ..).2 hfits)

/-- Settles O35: the fit test fails; the FirstFrame is full, and its chunk shorter than the message. -/
theorem multiFrameStart : Obligations.MultiFrameStart := by
  intro now m q s hcan hC hreach hidle hqueue hm htooLong k pci
  have hlong : fitsSingle s.C m.length = false := by
    rwa [← Bool.not_eq_true, fitsSingle_iff, Nat.not_le]
  have hfull := firstFrame_length hC hlong
  have hdata := emitted_data_of_full hC hfull
  have hrest : m.drop k ≠ [] := by
    rw [Ne, List.drop_eq_nil_iff, Nat.not_le]
    exact (firstChunk_lt hC hlong).1
  refine ⟨exec_processTx_of_stepFour hcan hreach ?_, ?_, ?_, hrest⟩
  · rw [driveState_of_idle (s := atOp now s) hidle]
    exact startNext_of_not_fits (s := atOp now s) hC hqueue hm hlong
  · rw [List.append_assoc]
    exact hdata
  · exact (congrArg List.length hdata).trans hfull

/-- Settles O36: before the pacing deadline nothing; after it the three cases of R274, whose conditions exclude each other. -/
theorem consecutiveFrameEmission : Obligations.ConsecutiveFrameEmission := by
  intro now s hcan hC hreach htransmit c out full sent elapsed
  have hearly (h : ¬elapsed) : exec (.processTx now) s = .next (atOp now s) :=
    exec_processTx_of_stepFour hcan hreach
      (driveState_of_pacing (s := atOp now s) htransmit (expired_eq_false_of_not_deadlinePassed h))
  obtain ⟨t, ht⟩ := emitConsecutive_answers (s := atOp now s) hC
  have hlate (h : elapsed) : exec (.processTx now) s = .next t :=
    exec_processTx_of_stepFour hcan hreach
      ((driveState_of_elapsed (s := atOp now s) htransmit ((expired_iff_deadlinePassed _ _).2 h)).trans ht)
  obtain ⟨r, hr, hcases⟩ := emitConsecutive_cases ht
  obtain rfl : r = out := Except.ok.inj (hr.symm.trans (encodeRaw_consecutive hC ..))
  obtain ⟨hlast, rfl⟩ | ⟨hmore, hfull, rfl⟩ | ⟨hmore, hfull, rfl⟩ := hcases
  · exact ⟨hearly, fun h _ => hlate h, fun _ h => absurd hlast (Nat.not_le.2 h), fun _ h => absurd hlast (Nat.not_le.2 h)⟩
  · exact ⟨hearly, fun _ h => absurd h (Nat.not_le.2 hmore), fun h _ _ => hlate h, fun _ _ h => absurd hfull h⟩
  · exact ⟨hearly, fun _ h => absurd h (Nat.not_le.2 hmore), fun _ _ h => absurd h hfull, fun h _ _ => hlate h⟩

end Sys2Proof.Machine
end

section
/-! What the transmit phase never writes (R260), and the one way into `Transmit` (R281). -/

namespace Sys2Proof.Machine

/-- Steps 2 to 4 write transmit registers, the mailbox, the results and at most the head of the outbound queue. -/
theorem stepsTwoToFour_frame {s t : State} (h : driveState (checkFcTimeout (serveMailbox s)) = .ok t) :
    ∃ ts tb tl tn tc w rb ru tf tp mb ob fr ev, t =
      { s with
        txState := ts, txBuffer := tb, txFrameLen := tl, txSeqNum := tn, txBlockCounter := tc, wftCounter := w
        remoteBlocksize := rb, remoteStminUs := ru, timerRxFC := tf, timerTxStmin := tp, lastFlowControlFrame := mb
        outbound := ob, txFrame := fr, events := ev } ∧
      (ob = s.outbound ∨ ∃ m, s.outbound = m :: ob) := by
  obtain ⟨_, _, _, _, _, _, _, _, _, _, _, _, eserve⟩ := serveMailbox_frame s
  obtain ⟨_, _, _, _, _, _, _, _, _, _, _, echeck⟩ := checkFcTimeout_frame (serveMailbox s)
  obtain ⟨_, _, _, _, _, _, _, _, _, _, _, _, rfl, hqueue⟩ := driveState_frame h
  rw [echeck, eserve] at hqueue ⊢
  exact ⟨_, _, _, _, _, _, _, _, _, _, _, _, _, _, rfl, hqueue⟩

/-- Settles O37: step 1 writes the flag, the CF timer and the frame; the steps after it leave those two alone. -/
theorem transmitPhaseLeavesReceiveSide : Obligations.TransmitPhaseLeavesReceiveSide := by
  intro now s t ht
  obtain ⟨hpending, h⟩ | ⟨hclear, h⟩ := processTransmit_cases (execProcessTx_next ht)
  · have hpending : s.pendingFlowControlTx = true := hpending
    obtain ⟨r, -, rfl⟩ := sendFlowControl_cases h
    exact ⟨⟨rfl, rfl, rfl, rfl, rfl, rfl⟩, rfl, rfl, rfl, rfl, rfl, fun hclear => by simp [hclear] at hpending,
      fun _ => ⟨⟨rfl, rfl, rfl, rfl, rfl, rfl, rfl, rfl, rfl, rfl, rfl⟩, rfl⟩, .inl rfl⟩
  · have hclear : s.pendingFlowControlTx = false := hclear
    obtain ⟨_, _, _, _, _, _, _, _, _, _, _, _, _, _, rfl, hqueue⟩ := stepsTwoToFour_frame h
    exact ⟨⟨rfl, rfl, rfl, rfl, rfl, rfl⟩, rfl, rfl, rfl, rfl, rfl, fun _ => ⟨hclear, rfl⟩,
      fun hpending => by simp [hclear] at hpending, hqueue⟩

/-- Step 4 does not enter `Transmit`, and where it stays there the peer's registers stay. -/
theorem driveState_transmit {s t : State} (h : driveState s = .ok t) (htransmit : t.txState = .transmit) :
    s.txState = .transmit ∧ t.remoteBlocksize = s.remoteBlocksize ∧ t.remoteStminUs = s.remoteStminUs := by
  obtain ⟨hidle, h⟩ | ⟨-, rfl⟩ | ⟨hs, -, h⟩ | ⟨-, -, rfl⟩ := driveState_cases h
  · obtain ⟨-, rfl⟩ | ⟨m, q, r, -, -, -, rfl⟩ | ⟨m, q, r, -, -, -, rfl⟩ := startNext_cases h
    · simp [hidle] at htransmit
    · simp [hidle] at htransmit
    · simp at htransmit
  · exact ⟨htransmit, rfl, rfl⟩
  · obtain ⟨r, -, ⟨-, rfl⟩ | ⟨-, -, rfl⟩ | ⟨-, -, rfl⟩⟩ := emitConsecutive_cases h
    · simp at htransmit
    · simp at htransmit
    · exact ⟨hs, rfl, rfl⟩
  · exact ⟨htransmit, rfl, rfl⟩

/-- A timeout ends in `Idle`. -/
theorem checkFcTimeout_of_transmit {s : State} (h : (checkFcTimeout s).txState = .transmit) : checkFcTimeout s = s := by
  obtain ⟨e, -⟩ | ⟨e, -⟩ := checkFcTimeout_cases s
  · exact e
  · simp [e] at h

/-- Of all that the mailbox can hold, only a ContinueToSend found by a send in progress leads into `Transmit`. -/
theorem serveMailbox_transmit {s : State} (h : (serveMailbox s).txState = .transmit) (hs : s.txState ≠ .transmit) :
    s.txState = .waitFC ∧ ∃ fc, s.lastFlowControlFrame = some fc ∧ fc.flowStatus = .continueToSend ∧
      serveMailbox s = adoptGrant fc (clearMailbox s) := by
  obtain ⟨-, e⟩ | ⟨fc, hmail, ⟨-, e⟩ | ⟨hsending, hgrant, e⟩ | ⟨-, -, -, e⟩ | ⟨-, -, -, e⟩ | ⟨-, -, e⟩⟩ :=
    serveMailbox_cases s <;>
  rw [e] at h
  · exact absurd h hs
  · exact absurd h hs
  · refine ⟨?_, fc, hmail, hgrant, e⟩
    cases hstate : s.txState with
    | idle => exact absurd hstate hsending
    | waitFC => rfl
    | transmit => exact absurd hstate hs
  · exact absurd h hs
  · simp at h
  · simp at h

/-- Settles O38: a call that ends in `Transmit` was there before its step 4, hence before its step 3; step 2 led it there. -/
theorem transmitEnteredOnlyByGrant : Obligations.TransmitEnteredOnlyByGrant := by
  intro now s t ht htransmit hs
  obtain ⟨-, h⟩ | ⟨hclear, h⟩ := processTransmit_cases (execProcessTx_next ht)
  · obtain ⟨r, -, rfl⟩ := sendFlowControl_cases h
    exact absurd htransmit hs
  · obtain ⟨hdriven, hbs, hst⟩ := driveState_transmit h htransmit
    have hkept := checkFcTimeout_of_transmit hdriven
    rw [hkept] at hdriven hbs hst
    obtain ⟨hwait, fc, hmail, hgrant, e⟩ := serveMailbox_transmit hdriven hs
    rw [e] at hbs hst
    exact ⟨hclear, hwait, fc, hmail, hgrant, hbs, hst⟩

end Sys2Proof.Machine
end

section
/-! No step from a state with the invariant faults (R275): the transmit phase, the only one that builds frames, answers. -/

namespace Sys2Proof.Machine

/-- The head of the outbound queue is never empty and never too long for a FirstFrame (R50 (g)). -/
theorem startNext_answers {s : State} (h : Inv s) : ∃ t, startNext s = .ok t := by
  cases hqueue : s.outbound with
  | nil => exact ⟨s, startNext_of_empty hqueue⟩
  | cons m q =>
    obtain ⟨hpos, hmax⟩ := h.queues.outbound m (by simp [hqueue])
    cases hfits : fitsSingle s.C m.length with
    | true => exact ⟨_, startNext_of_fits h.config hqueue hpos hfits⟩
    | false => exact ⟨_, startNext_of_not_fits h.config hqueue hmax hfits⟩

theorem driveState_answers {s : State} (h : Inv s) : ∃ t, driveState s = .ok t := by
  cases hstate : s.txState with
  | idle =>
    rw [driveState_of_idle hstate]
    exact startNext_answers h
  | waitFC => exact ⟨s, driveState_of_waitFC hstate⟩
  | transmit =>
    cases helapsed : expired s.timerTxStmin s.clock with
    | true =>
      rw [driveState_of_elapsed hstate helapsed]
      exact emitConsecutive_answers h.config
    | false => exact ⟨s, driveState_of_pacing hstate helapsed⟩

theorem processTransmit_answers {s : State} (h : Inv s) : ∃ t, processTransmit s = .ok t := by
  cases hpending : s.pendingFlowControlTx with
  | true =>
    rw [processTransmit_of_pending hpending]
    exact ⟨_, sendFlowControl_eq h.config⟩
  | false =>
    rw [processTransmit_of_not_pending hpending]
    exact driveState_answers (inv_checkFcTimeout (inv_serveMailbox h))

/-! ### The host operations -/

/-- A process operation is refused at its start, or its phases run on the state it finds. -/
theorem beginProcess_cases (now : Nat) (rx : Option RawFrame) (s : State) :
    (∃ r, beginProcess now rx s = .error r) ∨ beginProcess now rx s = .ok (atOp now s) := by
  cases hbegin : beginProcess now rx s with
  | error r => exact .inl ⟨r, rfl⟩
  | ok s1 =>
    obtain ⟨-, -, -, rfl⟩ := beginProcess_ok_iff.1 hbegin
    exact .inr rfl

section
variable {s : State} {f : Fault}

theorem hostOp_ne_fault (g : State → State) : hostOp g s ≠ .fault f := by
  rw [hostOp]
  split <;> simp

theorem execReset_ne_fault (a : Address) (c : CfgArgs) : execReset a c s ≠ .fault f := by
  rw [execReset]
  split
  · simp
  · split <;> simp

theorem execSend_ne_fault (m : Bytes) : execSend m s ≠ .fault f := by
  rw [execSend]
  split
  · simp
  · exact hostOp_ne_fault _

theorem execReceive_ne_fault : execReceive s ≠ .fault f := by
  rw [execReceive]
  exact hostOp_ne_fault _

theorem execSetFdMode_ne_fault (on : Bool) : execSetFdMode on s ≠ .fault f := by
  rw [execSetFdMode]
  exact hostOp_ne_fault _

theorem execCfgWrite_ne_fault (reg value : Nat) : execCfgWrite reg value s ≠ .fault f := by
  rw [execCfgWrite]
  split
  · simp
  · exact hostOp_ne_fault _

theorem execProcessRx_ne_fault (now : Nat) (rx : Option RawFrame) : execProcessRx now rx s ≠ .fault f := by
  rw [execProcessRx]
  split <;> simp

theorem execProcess_ne_fault (h : Inv s) (now : Nat) (rx : Option RawFrame) : execProcess now rx s ≠ .fault f := by
  obtain ⟨t, ht⟩ := processTransmit_answers (inv_processReceive (rx := rx) (inv_atOp h now))
  obtain ⟨r, hbegin⟩ | hbegin := beginProcess_cases now rx s
  · simp [execProcess, hbegin]
  · simp [execProcess, hbegin, ht]

theorem execProcessTx_ne_fault (h : Inv s) (now : Nat) : execProcessTx now s ≠ .fault f := by
  obtain ⟨t, ht⟩ := processTransmit_answers (inv_atOp h now)
  obtain ⟨r, hbegin⟩ | hbegin := beginProcess_cases now none s
  · simp [execProcessTx, hbegin]
  · simp [execProcessTx, hbegin, ht]

/-- With the invariant no host instruction faults. -/
theorem exec_ne_fault {i : Instr} (hhost : i.isWire = false) (h : Inv s) : exec i s ≠ .fault f := by
  cases i with
  | reset a c => exact execReset_ne_fault a c
  | send m => exact execSend_ne_fault m
  | receive => exact execReceive_ne_fault
  | setFdMode on => exact execSetFdMode_ne_fault on
  | process now rx => exact execProcess_ne_fault h now rx
  | processRx now rx => exact execProcessRx_ne_fault now rx
  | processTx now => exact execProcessTx_ne_fault h now
  | cfgWrite reg value => exact execCfgWrite_ne_fault reg value
  | _ => exact absurd hhost.symm Bool.false_ne_true

end

/-- Settles O54: a step holds the state, refuses a command, or runs a host instruction. -/
theorem invariantStatesNeverFault : Obligations.InvariantStatesNeverFault := by
  intro s f h
  cases hprogram : s.program with
  | nil => simp [step, fetch, hprogram]
  | cons c rest =>
    have hfetch := fetch_of_program_cons hprogram
    cases hdecode : decodeCommand c with
    | error e => simp [step_of_fetch_of_decode_error hfetch hdecode]
    | ok i =>
      rw [step_of_fetch_of_decode hfetch hdecode]
      exact exec_ne_fault (isWire_of_decodeCommand hdecode) (inv_of_modelFields h ..)

end Sys2Proof.Machine
end

section
/-! T1: a message within single-frame capacity, from the sender's queue into that of the mirrored peer (R270, R272, R235). -/

namespace Sys2Proof.Machine

/-- R372 (3): mirrored Transports have prefixes of one length. -/
theorem rxPrefixSize_of_mirrors {a peer : Address} (ha : checkAddress a = .ok a) (hpeer : Mirrors a peer) :
    rxPrefixSize peer = (txPayloadPrefix a).length := by
  obtain ⟨-, -, hmode, -, -⟩ := hpeer
  rw [(txPayloadPrefix_length ha).1, rxPrefixSize, rxPrefixSize, hmode]

/-- In `Idle` there is no reception to time out. -/
theorem checkCfTimeout_of_idle {s : State} (h : s.rxState = .idle) : checkCfTimeout s = s :=
  if_neg (by simp [h])

/-- An idle peer delivers the SingleFrame this side emits, with no event (R235). -/
theorem exec_processRx_of_single {C : ConfigRegs} {now : Nat} {m : Bytes} {r : RawFrame} {s : State} (hC : ConfigInv C)
    (hr : encodeRaw C (.single m) = .ok r) (hlive : s.live = true) (hclock : s.clock ≤ now) (hidle : s.rxState = .idle)
    (hpeer : Mirrors C.addr s.C.addr) :
    exec (.processRx now (some r)) s = .next { rxReset (atOp now s) with inbound := s.inbound ++ [m] } := by
  obtain ⟨hok, -, -, -, -, hfor⟩ := emittedFrameIsWellFormedAndForThePeer C _ r hC hr
  obtain ⟨hparse, -⟩ := emittedFrameParsesBack C _ r hr
  have hparse := hparse m rfl
  rw [← rxPrefixSize_of_mirrors hC.address hpeer] at hparse
  refine execProcessRx_eq_next_iff.2 ⟨⟨hlive, hok, hclock⟩, ?_⟩
  rw [processReceive_of_parse_ok (s := atOp now s) (hfor _ hpeer) hparse, checkCfTimeout_of_idle (s := atOp now s) hidle,
    receiveFrame, receiveSingle_eq, interruptEvents, if_pos (show (atOp now s).rxState = .idle from hidle)]
  rfl

/-- Settles O58: the sender's call is that of R272, and the frame it emits is the encoded SingleFrame the peer takes. -/
theorem singleFrameLoopback : Obligations.SingleFrameLoopback := by
  intro now n2 m q a b hcan hC hreach hidle hqueue hm hfits hlive hclock hpeerIdle hpeer
  have hencode := encodeRaw_single hC hm ((fitsSingle_iff ..).2 hfits)
  exact ⟨_, _, _, singleFrameSend now m q a hcan hC hreach hidle hqueue hm hfits, rfl, rfl,
    exec_processRx_of_single hC hencode hlive hclock hpeerIdle hpeer, rfl, rfl⟩

end Sys2Proof.Machine
end

section
/-! The process operations as equations (R300, R302, R303): the checks at their start, in the model's order (log entry 10), then
the outcome of the phases. PROCESS is PROCESS_RX followed by PROCESS_TX. -/

namespace Sys2Proof.Machine

/-! ### The checks -/

/-- R101, the other way round: an ID above 29 bits, more than 64 bytes, or more than 8 with the FD flag clear. -/
theorem rawFrameOk_eq_false_iff (f : RawFrame) :
    rawFrameOk f = false ↔ 2 ^ 29 ≤ f.id ∨ 64 < f.data.length ∨ f.fd = false ∧ 8 < f.data.length := by
  simp only [rawFrameOk, Config.maxDlFd, Config.maxDlClassic, Bool.and_eq_false_iff, Bool.or_eq_false_iff,
    decide_eq_false_iff_not, Nat.not_lt, Nat.not_le, or_assoc]

theorem rxFrameOk_eq_false_iff (rx : Option RawFrame) :
    rxFrameOk rx = false ↔ ∃ f, rx = some f ∧ rawFrameOk f = false := by
  cases rx with
  | none => simp [rxFrameOk]
  | some f => simp [rxFrameOk]

theorem beginProcess_of_canProcess {now : Nat} {rx : Option RawFrame} {s : State} (hcan : canProcess now rx s) :
    beginProcess now rx s = .ok (atOp now s) := by
  obtain ⟨hlive, hframe, hclock⟩ := hcan
  exact beginProcess_ok_iff.2 ⟨hlive, hframe, hclock, rfl⟩

section
variable {now : Nat} {rx : Option RawFrame} {s : State} (hlive : s.live = true)
include hlive

theorem beginProcess_of_illFormed (hframe : rxFrameOk rx = false) : beginProcess now rx s = .error .illFormedFrame := by
  simp [beginProcess, hlive, hframe]

theorem beginProcess_of_clockWentBack (hframe : rxFrameOk rx = true) (hclock : now < s.clock) :
    beginProcess now rx s = .error .clockWentBack := by
  simp [beginProcess, hlive, hframe, hclock]

/-- Whatever the frame, a clock sample below an earlier one is refused. -/
theorem beginProcess_error_of_clock (rx : Option RawFrame) (hclock : now < s.clock) :
    ∃ r, beginProcess now rx s = .error r := by
  cases hframe : rxFrameOk rx with
  | false => exact ⟨_, beginProcess_of_illFormed hlive hframe⟩
  | true => exact ⟨_, beginProcess_of_clockWentBack hlive hframe hclock⟩

/-- On a live Transport the checks fail for an ill-formed frame or a clock that goes back, and for nothing else. -/
theorem not_canProcess_iff :
    ¬canProcess now rx s ↔ (∃ f, rx = some f ∧ rawFrameOk f = false) ∨ now < s.clock := by
  rw [← rxFrameOk_eq_false_iff, canProcess, and_iff_right hlive, not_and_or, Bool.not_eq_true, Nat.not_le]

end

/-! ### The operations -/

section
variable {now : Nat} {rx : Option RawFrame} {s : State} {r : Refusal}

theorem exec_process_of_error (h : beginProcess now rx s = .error r) : exec (.process now rx) s = .refused r := by
  simp only [exec, execProcess, h]

theorem exec_processRx_of_error (h : beginProcess now rx s = .error r) : exec (.processRx now rx) s = .refused r := by
  simp only [exec, execProcessRx, h]

theorem exec_processTx_of_error (h : beginProcess now none s = .error r) : exec (.processTx now) s = .refused r := by
  simp only [exec, execProcessTx, h]

theorem exec_processRx (hcan : canProcess now rx s) :
    exec (.processRx now rx) s = .next (processReceive rx (atOp now s)) :=
  execProcessRx_eq_next_iff.2 ⟨hcan, rfl⟩

theorem exec_process (hcan : canProcess now rx s) :
    exec (.process now rx) s = phaseOutcome (processTransmit (processReceive rx (atOp now s))) := by
  simp only [exec, execProcess, beginProcess_of_canProcess hcan]
  cases processTransmit (processReceive rx (atOp now s)) <;> rfl

end

theorem phaseOutcome_ne_refused (p : Except Fault State) (r : Refusal) : phaseOutcome p ≠ .refused r := by
  cases p <;> simp [phaseOutcome]

/-- The phases never refuse: a refusal of PROCESS is one of its checks. -/
theorem exec_process_refused_iff {now : Nat} {rx : Option RawFrame} {s : State} :
    (∃ r, exec (.process now rx) s = .refused r) ↔ ¬canProcess now rx s := by
  constructor
  · rintro ⟨r, hr⟩ hcan
    rw [exec_process hcan] at hr
    exact phaseOutcome_ne_refused _ r hr
  · intro hcannot
    obtain ⟨r, hbegin⟩ | hbegin := beginProcess_cases now rx s
    · exact ⟨r, exec_process_of_error hbegin⟩
    · obtain ⟨hlive, hframe, hclock, -⟩ := beginProcess_ok_iff.1 hbegin
      exact absurd ⟨hlive, hframe, hclock⟩ hcannot

/-! ### The receive phase, then the transmit phase -/

/-- The results the receive phase leaves are its events alone, so PROCESS_TX at the same `now` finds its state without them. -/
theorem withEvents_atOp_processReceive (now : Nat) (rx : Option RawFrame) (s : State) :
    withEvents (processReceive rx (atOp now s)).events (atOp now (processReceive rx (atOp now s))) =
      processReceive rx (atOp now s) := by
  obtain ⟨_, _, _, _, _, _, _, _, _, _, e⟩ := processReceive_frame rx (atOp now s)
  rw [e]
  simp [withEvents, atOp]

/-- After a receive phase the Transport is live and at the operation's clock sample, so PROCESS_TX may follow. -/
theorem canProcess_of_processRx {now : Nat} {rx : Option RawFrame} {s t : State}
    (ht : exec (.processRx now rx) s = .next t) : canProcess now none t := by
  obtain ⟨-, -, hlive, -, -, -, hclock⟩ := receivePhaseLeavesTransmitSide now rx s t ht
  obtain ⟨⟨hs, -, -⟩, -⟩ := execProcessRx_eq_next_iff.1 ht
  exact ⟨hlive.trans hs, rfl, hclock.le⟩

/-- R300: the events of the receive phase stand before those of the transmit phase, which does not read them. -/
theorem exec_process_of_processRx {now : Nat} {rx : Option RawFrame} {s t : State}
    (ht : exec (.processRx now rx) s = .next t) :
    exec (.process now rx) s = eventsBefore t.events (exec (.processTx now) t) := by
  have hcanTx := canProcess_of_processRx ht
  obtain ⟨hcan, rfl⟩ := execProcessRx_eq_next_iff.1 ht
  rw [exec_process hcan, exec_processTx hcanTx, ← eventsBefore_phaseOutcome, ← processTransmit_withEvents,
    withEvents_atOp_processReceive]

/-- Settles O50: the composition of the phases, and the checks as the only source of a refusal. -/
theorem processIsReceiveThenTransmit : Obligations.ProcessIsReceiveThenTransmit := by
  intro now rx s
  exact ⟨fun _ ht => exec_process_of_processRx ht,
    fun hlive => exec_process_refused_iff.trans (not_canProcess_iff hlive)⟩

/-- With the invariant the transmit phase has a frame for everything it must send (R275), so PROCESS_TX answers a state. -/
theorem exec_processTx_answers {now : Nat} {s : State} (h : Inv s) (hcan : canProcess now none s) :
    ∃ t, exec (.processTx now) s = .next t := by
  obtain ⟨t, ht⟩ := processTransmit_answers (inv_atOp h now)
  exact ⟨t, by rw [exec_processTx hcan, ht, phaseOutcome]⟩

/-- Settles O49: PROCESS_RX always answers, PROCESS_TX does under the invariant, which PROCESS_RX keeps; PROCESS is the one
after the other. What each leaves unchanged are the frame statements of the two phases. -/
theorem processOperationsComplete : Obligations.ProcessOperationsComplete := by
  intro now rx s hinv hcan
  have hreceive := exec_processRx hcan
  obtain ⟨-, hconfig, -, -, hframe, -, hclock⟩ := receivePhaseLeavesTransmitSide now rx s _ hreceive
  refine ⟨?_, ⟨_, hreceive, hclock, hframe⟩, ?_⟩
  · obtain ⟨u, hu⟩ := exec_processTx_answers (inv_exec rfl hinv hreceive) (canProcess_of_processRx hreceive)
    obtain ⟨-, hconfigTx, -, -, -, hclockTx, -⟩ := transmitPhaseLeavesReceiveSide now _ u hu
    have hprocess := exec_process_of_processRx hreceive
    rw [hu, eventsBefore] at hprocess
    exact ⟨_, hprocess, hclockTx, hconfigTx.trans hconfig⟩
  · obtain ⟨hlive, -, hnow⟩ := hcan
    obtain ⟨u, hu⟩ := exec_processTx_answers hinv ⟨hlive, rfl, hnow⟩
    obtain ⟨⟨-, -, -, -, -, hinbound⟩, -, -, -, -, hclockTx, -⟩ := transmitPhaseLeavesReceiveSide now s u hu
    exact ⟨u, hu, hclockTx, hinbound⟩

/-- Settles O48: both refusals are those of the checks; the check of the frame comes first. -/
theorem processRefusals : Obligations.ProcessRefusals := by
  intro now rx s hlive
  constructor
  · intro hclock
    obtain ⟨r, hbegin⟩ := beginProcess_error_of_clock hlive rx hclock
    exact ⟨⟨r, exec_process_of_error hbegin⟩, ⟨r, exec_processRx_of_error hbegin⟩,
      exec_processTx_of_error (beginProcess_of_clockWentBack hlive rfl hclock)⟩
  · intro f hf hbad
    have hbegin : beginProcess now rx s = .error .illFormedFrame :=
      beginProcess_of_illFormed hlive ((rxFrameOk_eq_false_iff rx).2 ⟨f, hf, (rawFrameOk_eq_false_iff f).2 hbad⟩)
    exact ⟨exec_process_of_error hbegin, exec_processRx_of_error hbegin⟩

end Sys2Proof.Machine
end

section
/-! RESET with operands that fail a check (R176, R301), and the operations without a time argument as equations on a live
Transport (R305 to R308). -/

namespace Sys2Proof.Machine

/-! ### RESET -/

/-- The address comes first: the range check is made only for one that passes (R301). -/
theorem execReset_of_outOfRange {a : Address} {c : CfgArgs} (haddr : checkAddress a = .ok a) (hcfg : cfgArgsOk c = false)
    (s : State) : execReset a c s = .refused .resetValueOutOfRange := by
  simp [execReset, haddr, hcfg]

/-- RESET's range check fails for one value out of its range. -/
theorem cfgArgsOk_eq_false_iff (c : CfgArgs) :
    cfgArgsOk c = false ↔ 255 < c.blocksize ∨ 127 < c.stminMs ∨ ∃ b, c.padByte = some b ∧ 255 < b := by
  rw [← Bool.not_eq_true, cfgArgsOk_iff]
  simp only [not_and_or, not_forall, exists_prop, Nat.not_le]

/-- Settles O42: the two ways in which RESET fails. -/
theorem resetFailures : Obligations.ResetFailures := by
  intro a c s
  exact ⟨fun e he => execReset_of_error he c s,
    fun haddr hrange => execReset_of_outOfRange haddr ((cfgArgsOk_eq_false_iff c).2 hrange) s⟩

/-! ### SEND, RECEIVE, SET_FD_MODE -/

theorem sendLengthOk_iff (m : Bytes) : sendLengthOk m = true ↔ 1 ≤ m.length ∧ m.length ≤ 2 ^ 32 - 1 := by
  simp [sendLengthOk, Config.msgLenMax]

section
variable {s : State} (hlive : s.live = true)
include hlive

theorem exec_send_of_legal {m : Bytes} (h : sendLengthOk m = true) :
    exec (.send m) s = .next { atCall s with outbound := s.outbound ++ [m] } := by
  simp only [exec, execSend, h, Bool.not_true, Bool.and_false, Bool.false_eq_true, if_false, hostOp_live hlive]
  rfl

theorem exec_send_of_illegal {m : Bytes} (h : sendLengthOk m = false) : exec (.send m) s = .refused .sendLength := by
  simp [exec, execSend, hlive, h]

theorem exec_receive :
    exec .receive s = .next { atCall s with inbound := (pop s.inbound).2, reply := .message (pop s.inbound).1 } := by
  simp only [exec, execReceive, hostOp_live hlive]
  rfl

end

/-- Settles O44: the length check decides. -/
theorem sendEnqueues : Obligations.SendEnqueues := by
  intro m s hlive
  refine ⟨fun hpos hmax => exec_send_of_legal hlive ((sendLengthOk_iff m).2 ⟨hpos, hmax⟩), fun hlength => ?_⟩
  refine exec_send_of_illegal hlive (Bool.eq_false_iff.2 fun hok => ?_)
  obtain ⟨hpos, hmax⟩ := (sendLengthOk_iff m).1 hok
  omega

/-- Settles O45: what is popped from either form of the queue; an empty one stays as it is. -/
theorem receiveDequeues : Obligations.ReceiveDequeues := by
  intro s hlive
  refine ⟨fun hempty => ?_, fun m q hqueue => ?_⟩
  · rw [exec_receive hlive, hempty, pop, ← hempty]
    rfl
  · rw [exec_receive hlive, hqueue, pop]

/-- Settles O46: the operation on a live Transport, with no check of its own. -/
theorem setFdModeWritesCapacity : Obligations.SetFdModeWritesCapacity := by
  intro on s hlive
  simp only [exec, execSetFdMode, hostOp_live hlive]
  rfl

/-! ### CFG_WRITE -/

/-- R308: the capacity and the address are not written this way, and there are no registers after them. -/
theorem cfgWriteOk_of_six_le {reg : Nat} (h : 6 ≤ reg) (value : Nat) : cfgWriteOk reg value = false := by
  obtain ⟨k, rfl⟩ := Nat.exists_eq_add_of_le' h
  rfl

section
variable {reg value : Nat} {s : State} (hlive : s.live = true)
include hlive

theorem exec_cfgWrite_of_legal (h : cfgWriteOk reg value = true) :
    exec (.cfgWrite reg value) s = .next { atCall s with C := writeRegister reg value s.C } := by
  simp only [exec, execCfgWrite, h, Bool.not_true, Bool.and_false, Bool.false_eq_true, if_false, hostOp_live hlive]
  rfl

theorem exec_cfgWrite_of_illegal (h : cfgWriteOk reg value = false) :
    exec (.cfgWrite reg value) s = .refused .cfgWriteIllegal := by
  simp [exec, execCfgWrite, hlive, h]

end

/-- Settles O47: the value check of each register decides between the write and the refusal. -/
theorem cfgWriteWritesOneRegister : Obligations.CfgWriteWritesOneRegister := by
  intro v s hlive
  refine ⟨fun hbyte => ⟨?_, ?_⟩, fun hst => ?_, ?_, ?_, ?_, fun hbyte => ⟨?_, ?_⟩, fun hst => ?_, fun reg hreg => ?_⟩
  · exact exec_cfgWrite_of_legal hlive (decide_eq_true hbyte)
  · exact exec_cfgWrite_of_legal hlive (decide_eq_true hbyte)
  · exact exec_cfgWrite_of_legal hlive (decide_eq_true hst)
  · exact exec_cfgWrite_of_legal hlive rfl
  · exact exec_cfgWrite_of_legal hlive rfl
  · exact exec_cfgWrite_of_legal hlive rfl
  · exact exec_cfgWrite_of_illegal hlive (decide_eq_false (Nat.not_le.2 hbyte))
  · exact exec_cfgWrite_of_illegal hlive (decide_eq_false (Nat.not_le.2 hbyte))
  · exact exec_cfgWrite_of_illegal hlive (decide_eq_false (Nat.not_le.2 hst))
  · exact exec_cfgWrite_of_illegal hlive (cfgWriteOk_of_six_le hreg v)

end Sys2Proof.Machine
end

section
/-! Exceptions (`60_exceptions.md`): the reset sequences, the code tables, and that a host operation reads no results of the
operation before it (R331). -/

namespace Sys2Proof.Machine

/-- Settles O15: each sequence is one record update, and the timers it stops hold `stopTimer`. -/
theorem resetSequences : Obligations.ResetSequences := fun _ => ⟨rfl, rfl⟩

/-- Settles O16: each part of the statement is one line of a table, whatever parameters the event carries. -/
theorem eventCodesAndClasses : Obligations.EventCodesAndClasses := by
  unfold Obligations.EventCodesAndClasses
  and_intros <;> intros <;> rfl

/-! ### Results of the operation before -/

/-- Emptying the results first changes nothing for an operation that empties them itself. -/
theorem hostOp_beginOp (f : State → State) (s : State) : hostOp f (beginOp s) = hostOp f s := rfl

theorem beginProcess_beginOp (now : Nat) (rx : Option RawFrame) (s : State) :
    beginProcess now rx (beginOp s) = beginProcess now rx s := rfl

/-- R301, R176: RESET keeps the program alone, or it reports an address error and empties the results itself. -/
theorem execReset_beginOp (a : Address) (c : CfgArgs) (s : State) : execReset a c (beginOp s) = execReset a c s := rfl

/-- Every host operation starts from empty results, so it answers the same when they were emptied before it. The operand checks
of SEND and CFG_WRITE come first and read `live` alone. -/
theorem exec_beginOp {i : Instr} (hhost : i.isWire = false) (s : State) : exec i (beginOp s) = exec i s := by
  cases i with
  | reset a c => exact execReset_beginOp a c s
  | send m => exact ite_congr rfl (fun _ => rfl) fun _ => hostOp_beginOp _ s
  | receive => simp only [exec, execReceive, hostOp_beginOp]
  | setFdMode on => simp only [exec, execSetFdMode, hostOp_beginOp]
  | process now rx => simp only [exec, execProcess, beginProcess_beginOp]
  | processRx now rx => simp only [exec, execProcessRx, beginProcess_beginOp]
  | processTx now => simp only [exec, execProcessTx, beginProcess_beginOp]
  | cfgWrite reg v => exact ite_congr rfl (fun _ => rfl) fun _ => hostOp_beginOp _ s
  | _ => exact absurd hhost.symm Bool.false_ne_true

/-- Settles O51: states that differ in their results alone agree once these are emptied, and every host operation starts
there. -/
theorem resultsNeverInfluenceOperations : Obligations.ResultsNeverInfluenceOperations := by
  intro i s tx es rp hhost
  have hsame : beginOp { s with txFrame := tx, events := es, reply := rp } = beginOp s := rfl
  rw [← exec_beginOp hhost, hsame, exec_beginOp hhost]

end Sys2Proof.Machine
end

section
/-! Reset and hazards (R370, R379, R390): no Transport, a quiescent Transport, and a reception into which no frame comes. -/

namespace Sys2Proof.Machine

/-- Settles O43: the rule for every instruction but RESET. -/
theorem noTransportRefusesAll : Obligations.NoTransportRefusesAll :=
  fun _ _ hlive hreset => exec_not_live hlive hreset

/-! ### Nothing to send -/

/-- R379: what a transmit phase needs to find nothing to do: no flag, no mailbox, no timer, no send and no message. -/
structure NothingToSend (s : State) : Prop where
  pending  : s.pendingFlowControlTx = false
  mailbox  : s.lastFlowControlFrame = none
  timer    : s.timerRxFC.running = false
  idle     : s.txState = .idle
  outbound : s.outbound = []

theorem expired_of_not_running {T : Timer} (h : T.running = false) (now : Nat) : expired T now = false := by
  simp [expired, h]

theorem processTransmit_of_nothingToSend {s : State} (h : NothingToSend s) : processTransmit s = .ok s := by
  rw [processTransmit_of_not_pending h.pending, serveMailbox_of_none h.mailbox,
    checkFcTimeout_of_not_expired (expired_of_not_running h.timer _), driveState_of_idle h.idle,
    startNext_of_empty h.outbound]

/-- R50 (d): in `Idle` the FC timer is stopped. -/
theorem TxInv.timerRxFC_of_idle {s : State} (h : TxInv s) (hidle : s.txState = .idle) : s.timerRxFC.running = false := by
  obtain ⟨-, -, -, -, -, -, -, htimer, -⟩ := h.idle hidle
  exact htimer

/-- R50 (a): in `Idle` no flow-control frame is to be sent. -/
theorem RxInv.pending_of_idle {s : State} (h : RxInv s) (hidle : s.rxState = .idle) : s.pendingFlowControlTx = false := by
  obtain ⟨-, -, -, -, -, hpending⟩ := h.idle hidle
  exact hpending

/-- Settles O56: the receive phase has no reception to time out, and the transmit phase nothing to send. -/
theorem quiescentProcessChangesNothing : Obligations.QuiescentProcessChangesNothing := by
  intro now s hinv ⟨hrx, htx, hout, hpending, hmail⟩ hcan
  have hnothing : NothingToSend (atOp now s) := ⟨hpending, hmail, hinv.tx.timerRxFC_of_idle htx, htx, hout⟩
  rw [exec_process hcan, processReceive_none, checkCfTimeout_of_idle (s := atOp now s) hrx,
    processTransmit_of_nothingToSend hnothing, phaseOutcome]

/-! ### A reception into which no frame comes -/

/-- The transmit phase ends no reception; it arms the CF timer if it serves the flag, and leaves it alone otherwise. -/
theorem processTransmit_receiveSide {s t : State} (h : processTransmit s = .ok t) :
    SameReceiveRegisters s t ∧
      t.timerRxCF = if s.pendingFlowControlTx then ⟨true, s.clock, 1000 * s.C.cfTimeoutMs⟩ else s.timerRxCF := by
  obtain ⟨hpending, h⟩ | ⟨hclear, h⟩ := processTransmit_cases h
  · obtain ⟨r, -, rfl⟩ := sendFlowControl_cases h
    exact ⟨⟨rfl, rfl, rfl, rfl, rfl, rfl⟩, (if_pos hpending).symm⟩
  · obtain ⟨_, _, _, _, _, _, _, _, _, _, _, _, _, _, rfl, -⟩ := stepsTwoToFour_frame h
    exact ⟨⟨rfl, rfl, rfl, rfl, rfl, rfl⟩, (if_neg (by simp [hclear])).symm⟩

/-- A PROCESS with no frame delivers nothing. It leaves the receive machine in `Idle` or in the reception it was in, and then
the CF deadline had not passed. -/
theorem silentProcess_cases {now : Nat} {s t : State} (h : exec (.process now none) s = .next t) :
    t.inbound = s.inbound ∧
    (t.rxState = .idle ∨
      s.rxState = .waitCF ∧ ¬deadlinePassed s.timerRxCF now ∧
        t.timerRxCF = if s.pendingFlowControlTx then ⟨true, now, 1000 * s.C.cfTimeoutMs⟩ else s.timerRxCF) := by
  obtain ⟨⟨hstate, -, -, -, -, hinbound⟩, htimer⟩ := processTransmit_receiveSide (execProcess_next h)
  rw [processReceive_none] at hstate hinbound htimer
  refine ⟨hinbound.trans (checkCfTimeout_inbound _), ?_⟩
  cases hrx : t.rxState with
  | idle => exact .inl rfl
  | waitCF =>
    have hwait := hstate.symm.trans hrx
    obtain ⟨hs, hearly⟩ := (checkCfTimeout_atOp_waitCF_iff now s).1 hwait
    rw [checkCfTimeout_of_waitCF hwait] at htimer
    exact .inr ⟨hs, hearly, htimer⟩

/-- Settles O57: the first call leaves the CF timer running, armed by it or as it was (R50 (c)), and the second comes at or
after either deadline. -/
theorem silentReceptionEnds : Obligations.SilentReceptionEnds := by
  intro n m s t u hinv _ ht harmed hold hu
  obtain ⟨hdelivered, hfirst⟩ := silentProcess_cases ht
  obtain ⟨hdelivered', hsecond⟩ := silentProcess_cases hu
  refine ⟨?_, hdelivered'.trans hdelivered⟩
  obtain hidle | ⟨htwait, hearly, -⟩ := hsecond
  · exact hidle
  · obtain htidle | ⟨hwait, -, htimer⟩ := hfirst
    · simp [htidle] at htwait
    · refine absurd ?_ hearly
      rw [htimer]
      cases hpending : s.pendingFlowControlTx with
      | true => exact ⟨rfl, harmed⟩
      | false => exact ⟨(hinv.rx.guarded hwait).resolve_left (by simp [hpending]), hold⟩

end Sys2Proof.Machine
end

section
/-! T2: a sender `a` and its mirrored peer `b`, called in turn (R372 (3)): what a round keeps, and what the call of one side makes of
a frame the other emits. -/

namespace Sys2Proof.Machine

/-! ### A frame from the mirrored peer -/

theorem Mirrors.symm {a b : Address} (h : Mirrors a b) : Mirrors b a := by
  obtain ⟨hrx, htx, hmode, hext, hid⟩ := h
  exact ⟨htx.symm, hrx.symm, hmode.symm, hext.symm, hid.symm⟩

section
variable {C : ConfigRegs} (hC : ConfigInv C)
include hC

/-- A FirstFrame is not padded, so it parses back. -/
theorem parse_first {m : Bytes} (hm : m.length ≤ Config.msgLenMax) (hlong : fitsSingle C m.length = false) :
    parse (emitted C (firstPci m.length ++ m.take (firstChunk C m.length))).data (txPayloadPrefix C.addr).length =
      .ok (.first m.length (m.take (firstChunk C m.length))) := by
  have hchunk := (firstChunk_lt hC hlong).1
  rw [emitted_data_of_full hC (firstFrame_length hC hlong), parse_append]
  exact parse_of_serialize_first (serialize_first (by omega) hm _)

/-- A ConsecutiveFrame with a whole chunk is not padded, so it parses back. -/
theorem parse_consecutive_of_full (sn : BitVec 4) {buffer : Bytes} (hfull : consecutiveChunk C ≤ buffer.length) :
    parse (emitted C (cfBytes sn (buffer.take (consecutiveChunk C)))).data (txPayloadPrefix C.addr).length =
      .ok (.consecutive sn (buffer.take (consecutiveChunk C))) := by
  have hprefix := hC.txPayloadPrefix_length_le
  have hcapacity := hC.maxDataLength_eq
  rw [emitted_data_of_full hC, parse_append, parse_cfBytes]
  rw [List.length_append, cfBytes, List.length_cons, List.length_take, Nat.min_eq_left hfull, consecutiveChunk]
  omega

variable {f g : Frame} {r : RawFrame} {now : Nat} {s : State} (hr : encodeRaw C f = .ok r)
include hr

/-- A call may offer an emitted frame: it is well formed (R101). -/
theorem canProcess_of_encoded (hcan : canProcess now none s) : canProcess now (some r) s := by
  obtain ⟨hlive, -, hclock⟩ := hcan
  obtain ⟨hok, -⟩ := emittedFrameIsWellFormedAndForThePeer C f r hC hr
  exact ⟨hlive, hok, hclock⟩

/-- The receive phase of the mirrored peer dispatches an emitted frame, as it parses. -/
theorem processReceive_of_encoded (hpeer : Mirrors C.addr s.C.addr)
    (hparse : parse r.data (txPayloadPrefix C.addr).length = .ok g) :
    processReceive (some r) s = receiveFrame g (checkCfTimeout s) := by
  obtain ⟨-, -, -, -, -, hfor⟩ := emittedFrameIsWellFormedAndForThePeer C f r hC hr
  rw [← rxPrefixSize_of_mirrors hC.address hpeer] at hparse
  exact processReceive_of_parse_ok (hfor _ hpeer) hparse

end

/-! ### A round of the loopback -/

theorem exchange_of_next {t : Nat} {a b a' b' : State} {toA : Option RawFrame} (ha : exec (.process t toA) a = .next a')
    (hb : exec (.process t a'.txFrame) b = .next b') : exchange t a b toA = some (a', b', b'.txFrame) := by
  simp only [exchange, ha, hb]

theorem exchanges_succ {gap n t : Nat} {a b a' b' : State} {toA f : Option RawFrame}
    (h : exchange t a b toA = some (a', b', f)) :
    exchanges gap (n + 1) t a b toA = exchanges gap n (t + gap) a' b' f := by
  simp only [exchanges, h]

/-- PROCESS leaves the configuration and the Transport as they are, and takes its clock sample. -/
theorem exec_process_frame {now : Nat} {rx : Option RawFrame} {s t : State} (h : exec (.process now rx) s = .next t) :
    t.C = s.C ∧ t.live = s.live ∧ t.clock = now := by
  have h := execProcess_next h
  obtain ⟨_, _, _, _, _, _, _, _, _, _, e⟩ := processReceive_frame rx (atOp now s)
  rw [e] at h
  obtain ⟨-, h⟩ | ⟨-, h⟩ := processTransmit_cases h
  · obtain ⟨r, -, rfl⟩ := sendFlowControl_cases h
    exact ⟨rfl, rfl, rfl⟩
  · obtain ⟨_, _, _, _, _, _, _, _, _, _, _, _, _, _, rfl, -⟩ := stepsTwoToFour_frame h
    exact ⟨rfl, rfl, rfl⟩

/-- What every round at `t` of a loopback needs: two mirrored Transports that can be called, and a gap to the next round within
what the receiver `b` asks for (R274) and waits for (R232). -/
structure Linked (gap t : Nat) (a b : State) : Prop where
  invSender   : Inv a
  invReceiver : Inv b
  canSender   : canProcess t none a
  canReceiver : canProcess t none b
  mirrors     : Mirrors a.C.addr b.C.addr
  paced       : 1000 * b.C.stminMs.toNat ≤ gap
  prompt      : gap < 1000 * b.C.cfTimeoutMs

theorem Linked.after {gap t : Nat} {a b a' b' : State} {toA toB : Option RawFrame} (h : Linked gap t a b)
    (ha : exec (.process t toA) a = .next a') (hb : exec (.process t toB) b = .next b') : Linked gap (t + gap) a' b' := by
  obtain ⟨hCa, hla, hta⟩ := exec_process_frame ha
  obtain ⟨hCb, hlb, htb⟩ := exec_process_frame hb
  obtain ⟨hlivea, -, -⟩ := h.canSender
  obtain ⟨hliveb, -, -⟩ := h.canReceiver
  refine ⟨inv_exec rfl h.invSender ha, inv_exec rfl h.invReceiver hb, ⟨hla.trans hlivea, rfl, by omega⟩,
    ⟨hlb.trans hliveb, rfl, by omega⟩, ?_, ?_, ?_⟩
  · rw [hCa, hCb]
    exact h.mirrors
  · rw [hCb]
    exact h.paced
  · rw [hCb]
    exact h.prompt

/-! ### The receiver's calls -/

section
variable {now : Nat} {rx : Option RawFrame} {b s : State} (hcan : canProcess now rx b)
  (hrx : processReceive rx (atOp now b) = s)
include hcan hrx

/-- A call that has nothing to send ends as its receive phase does. -/
theorem exec_process_of_nothingToSend (hquiet : NothingToSend s) : exec (.process now rx) b = .next s := by
  rw [exec_process hcan, hrx, processTransmit_of_nothingToSend hquiet, phaseOutcome]

/-- A call whose receive phase asks for flow control answers with the grant (R263). -/
theorem exec_process_of_pending (hC : ConfigInv s.C) (hpending : s.pendingFlowControlTx = true) :
    exec (.process now rx) b = .next { s with
      pendingFlowControlTx := false, timerRxCF := ⟨true, s.clock, 1000 * s.C.cfTimeoutMs⟩
      txFrame := some (emitted s.C [0x30, s.C.blocksize, s.C.stminMs.setWidth 8]) } := by
  rw [exec_process hcan, hrx, processTransmit_of_pending hpending, sendFlowControl_eq hC, phaseOutcome]

end

/-- A reception that a call at `t` finds in time, on a side that has nothing to send itself. -/
structure Awaiting (t : Nat) (b : State) : Prop where
  quiet : NothingToSend b
  waits : b.rxState = .waitCF
  early : ¬deadlinePassed b.timerRxCF t

/-- The expected ConsecutiveFrame from the peer, in time, is accepted (R240). -/
theorem processReceive_of_expected {t : Nat} {b : State} {C : ConfigRegs} {r : RawFrame} {f : Frame} {data : Bytes}
    (hC : ConfigInv C) (hr : encodeRaw C f = .ok r) (hpeer : Mirrors C.addr b.C.addr)
    (hparse : parse r.data (txPayloadPrefix C.addr).length = .ok (.consecutive b.rxSeqNum data)) (h : Awaiting t b) :
    processReceive (some r) (atOp t b) = acceptConsecutive data (atOp t b) := by
  have hwait := (checkCfTimeout_atOp_waitCF_iff t b).2 ⟨h.waits, h.early⟩
  rw [processReceive_of_encoded (s := atOp t b) hC hr hpeer hparse, checkCfTimeout_of_waitCF hwait]
  exact receiveConsecutive_of_expected (s := atOp t b) h.waits data

section
variable {data : Bytes} {s : State}

theorem acceptConsecutive_of_complete (h : s.rxFrameLen ≤ s.rxBuffer.length + data.length) :
    acceptConsecutive data s =
      rxReset { s with inbound := s.inbound ++ [s.rxBuffer ++ data.take (s.rxFrameLen - s.rxBuffer.length)] } := by
  obtain ⟨-, e⟩ | ⟨hmore, -⟩ | ⟨hmore, -⟩ := acceptConsecutive_cases data s
  · exact e
  · omega
  · omega

variable (hmore : s.rxBuffer.length + data.length < s.rxFrameLen)
include hmore

theorem acceptConsecutive_of_blockEnd (hfull : s.C.blocksize.toNat ≠ 0 ∧ s.C.blocksize.toNat ≤ s.rxBlockCounter + 1) :
    acceptConsecutive data s = { s with
      rxSeqNum := s.rxSeqNum + 1, rxBuffer := s.rxBuffer ++ data, rxBlockCounter := 0
      pendingFlowControlTx := true, timerRxCF := ⟨false, 0, 0⟩ } := by
  obtain ⟨hcomplete, -⟩ | ⟨-, -, e⟩ | ⟨-, hopen, -⟩ := acceptConsecutive_cases data s
  · omega
  · exact e
  · exact absurd hfull hopen

theorem acceptConsecutive_of_midBlock (hopen : ¬(s.C.blocksize.toNat ≠ 0 ∧ s.C.blocksize.toNat ≤ s.rxBlockCounter + 1)) :
    acceptConsecutive data s = { s with
      rxSeqNum := s.rxSeqNum + 1, rxBuffer := s.rxBuffer ++ data, rxBlockCounter := s.rxBlockCounter + 1
      timerRxCF := ⟨true, s.clock, 1000 * s.C.cfTimeoutMs⟩ } := by
  obtain ⟨hcomplete, -⟩ | ⟨-, hfull, -⟩ | ⟨-, -, e⟩ := acceptConsecutive_cases data s
  · omega
  · exact absurd hfull hopen
  · exact e

end

end Sys2Proof.Machine
end

section
/-! T2: the transfer of a message that takes several frames. An invariant between the rounds, and what one round does: the cases of
R274 at the sender go with those of R240 at the receiver. -/

namespace Sys2Proof.Machine

/-! ### Between two rounds -/

/-- A send under the grant of the peer `b`, its count of the block the same as `b`'s (R240, R265, R274). -/
def granted (b : State) (waits : Nat) (fcTimer pacing : Timer) (s : State) : State :=
  { s with
    txState := .transmit, remoteBlocksize := b.C.blocksize, remoteStminUs := 1000 * b.C.stminMs.toNat
    txBlockCounter := b.rxBlockCounter, wftCounter := waits, timerRxFC := fcTimer, timerTxStmin := pacing }

/-- The sender's next call finds the grant of a new block. -/
structure FindsGrant (a b : State) (toA : Option RawFrame) : Prop where
  frame   : toA = some (emitted b.C [0x30, b.C.blocksize, b.C.stminMs.setWidth 8])
  state   : a.txState = .waitFC
  counter : b.rxBlockCounter = 0

/-- The sender's next call, at `t`, is in mid-block and no longer paced. -/
structure InBlock (t : Nat) (a b : State) (toA : Option RawFrame) : Prop where
  frame   : toA = none
  state   : a = granted b a.wftCounter a.timerRxFC a.timerTxStmin a
  timer   : a.timerRxFC.running = false
  elapsed : expired a.timerTxStmin t = true

/-- The transfer of `m` between two rounds, the next at `t`: the receiver has the first part and the sender the rest. -/
structure InTransfer (m : Bytes) (gap t : Nat) (a b : State) (toA : Option RawFrame) : Prop where
  linked   : Linked gap t a b
  idle     : a.rxState = .idle
  mailbox  : a.lastFlowControlFrame = none
  outbound : a.outbound = []
  receiver : Awaiting t b
  parts    : b.rxBuffer ++ a.txBuffer = m
  total    : b.rxFrameLen = m.length
  sequence : a.txSeqNum = b.rxSeqNum
  turn     : FindsGrant a b toA ∨ InBlock t a b toA

/-! ### The sender's call -/

theorem processTransmit_of_granted {b s : State} {waits : Nat} {fcTimer pacing : Timer}
    (hpending : s.pendingFlowControlTx = false) (hmail : s.lastFlowControlFrame = none) (htimer : fcTimer.running = false)
    (helapsed : expired pacing s.clock = true) :
    processTransmit (granted b waits fcTimer pacing s) = emitConsecutive (granted b waits fcTimer pacing s) := by
  rw [processTransmit_of_not_pending (s := granted b waits fcTimer pacing s) hpending,
    serveMailbox_of_none (s := granted b waits fcTimer pacing s) hmail,
    checkFcTimeout_of_not_expired (s := granted b waits fcTimer pacing s) (expired_of_not_running htimer _),
    driveState_of_elapsed (s := granted b waits fcTimer pacing s) rfl helapsed]

/-- The peer's flow-control frame, on a side with no reception, goes into the mailbox (R233). -/
theorem processReceive_of_ownFlowControl {C : ConfigRegs} {s : State} (hC : ConfigInv C) (hpeer : Mirrors C.addr s.C.addr)
    (hidle : s.rxState = .idle) :
    processReceive (some (emitted C [0x30, C.blocksize, C.stminMs.setWidth 8])) s =
      postMailbox ⟨.continueToSend, C.blocksize, 1000 * C.stminMs.toNat⟩ s := by
  have hr := encodeRaw_ownFlowControl hC
  obtain ⟨-, hparse, -⟩ := emittedFrameParsesBack C _ _ hr
  rw [processReceive_of_encoded hC hr hpeer (hparse _ rfl), checkCfTimeout_of_idle hidle]
  exact receiveFlowControl_of_idle hidle _

/-- A grant posted into an empty mailbox is what the transmit phase goes on with (R265). -/
theorem serveMailbox_postMailbox {b s : State} (hsending : s.txState ≠ .idle) (hmail : s.lastFlowControlFrame = none)
    (hcounter : b.rxBlockCounter = 0) :
    serveMailbox (postMailbox ⟨.continueToSend, b.C.blocksize, 1000 * b.C.stminMs.toNat⟩ s) =
      granted b 0 stopTimer (armTimer s.clock 0) s := by
  rw [serveMailbox_of_some rfl, actOnFlowControl_of_continueToSend (s := clearMailbox (postMailbox _ s)) hsending rfl,
    granted, hcounter, hmail]
  rfl

/-- Either way the sender's call emits one ConsecutiveFrame, under the receiver's grant. -/
theorem InTransfer.exec_sender {m : Bytes} {gap t : Nat} {a b : State} {toA : Option RawFrame}
    (h : InTransfer m gap t a b toA) :
    ∃ waits fcTimer pacing, fcTimer.running = false ∧
      exec (.process t toA) a = phaseOutcome (emitConsecutive (granted b waits fcTimer pacing (atOp t a))) := by
  have hpending := h.linked.invSender.rx.pending_of_idle h.idle
  obtain ⟨rfl, hstate, hcounter⟩ | ⟨rfl, hstate, htimer, helapsed⟩ := h.turn
  · have hC := h.linked.invReceiver.config
    have hpeer := h.linked.mirrors.symm
    refine ⟨0, stopTimer, armTimer t 0, rfl, ?_⟩
    rw [exec_process (canProcess_of_encoded hC (encodeRaw_ownFlowControl hC) h.linked.canSender),
      processReceive_of_ownFlowControl (s := atOp t a) hC hpeer h.idle,
      ← processTransmit_serveMailbox (s := postMailbox _ (atOp t a)) hpending,
      serveMailbox_postMailbox (s := atOp t a) (by simp [atOp, hstate]) h.mailbox hcounter]
    exact congrArg _ (processTransmit_of_granted (s := atOp t a) hpending h.mailbox rfl
      ((expired_armTimer _ _ _).2 (Nat.le_refl t)))
  · refine ⟨a.wftCounter, a.timerRxFC, a.timerTxStmin, htimer, ?_⟩
    rw [exec_process h.linked.canSender, processReceive_none, checkCfTimeout_of_idle (s := atOp t a) h.idle,
      ← processTransmit_of_granted (s := atOp t a) hpending h.mailbox htimer helapsed]
    exact congrArg (fun s => phaseOutcome (processTransmit (atOp t s))) hstate

/-! ### The rounds of a transfer -/

/-- The message has arrived: what the rounds from `a` and `b` to `a'` and `b'` have done together (T2). -/
def Arrived (m : Bytes) (a b a' b' : State) : Prop :=
  b'.inbound = b.inbound ++ [m] ∧ a'.txState = .idle ∧ a'.outbound = [] ∧ b'.rxState = .idle ∧ a'.inbound = a.inbound

/-- The transfer goes on at `t`, with nothing delivered yet and less left to send. -/
structure GoesOn (m : Bytes) (gap t : Nat) (a b a' b' : State) (f : Option RawFrame) : Prop where
  transfer        : InTransfer m gap t a' b' f
  shorter         : a'.txBuffer.length < a.txBuffer.length
  senderInbound   : a'.inbound = a.inbound
  receiverInbound : b'.inbound = b.inbound

/-- A CF timer armed at a call is not over at the next. -/
theorem not_deadlinePassed_of_prompt {gap t d : Nat} (h : gap < d) : ¬deadlinePassed ⟨true, t, d⟩ (t + gap) :=
  fun ⟨_, hpassed⟩ => absurd hpassed (by simp only; omega)

theorem consecutiveChunk_pos {C : ConfigRegs} (hC : ConfigInv C) : 1 ≤ consecutiveChunk C := by
  have hprefix := hC.txPayloadPrefix_length_le
  have hcapacity := hC.maxDataLength_eq
  rw [consecutiveChunk]
  omega

section
variable {m : Bytes} {gap t waits : Nat} {a b : State} {toA : Option RawFrame} {fcTimer pacing : Timer} {r : RawFrame}
  (h : InTransfer m gap t a b toA)
include h

/-- The bytes the receiver misses are those the sender still has. -/
theorem InTransfer.missing : b.rxFrameLen = b.rxBuffer.length + a.txBuffer.length := by
  rw [h.total, ← h.parts, List.length_append]

/-- The sender's last frame completes the message at the receiver, which cuts the padding off (R240). -/
theorem InTransfer.lastRound (hlast : a.txBuffer.length ≤ consecutiveChunk a.C)
    (hr : encodeRaw a.C (.consecutive a.txSeqNum (a.txBuffer.take (consecutiveChunk a.C))) = .ok r)
    (ha : exec (.process t toA) a =
      .next { txReset (granted b waits fcTimer pacing (atOp t a)) with txFrame := some r }) :
    ∃ a' b' f, exchange t a b toA = some (a', b', f) ∧ Arrived m a b a' b' := by
  have hC := h.linked.invSender.config
  obtain ⟨-, -, -, hparse⟩ := emittedFrameParsesBack a.C _ r hr
  obtain ⟨k, hparse⟩ := hparse _ _ rfl
  rw [h.sequence, List.take_of_length_le hlast] at hparse
  have hwhole : b.rxBuffer ++ (a.txBuffer ++ List.replicate k a.C.padByte).take (b.rxFrameLen - b.rxBuffer.length) = m := by
    rw [h.missing, Nat.add_sub_cancel_left, List.take_left, h.parts]
  have haccept := acceptConsecutive_of_complete (s := atOp t b) (data := a.txBuffer ++ List.replicate k a.C.padByte)
    (by rw [List.length_append, ← Nat.add_assoc]; exact h.missing.le.trans (Nat.le_add_right ..))
  have hquiet := h.receiver.quiet
  have hb := exec_process_of_nothingToSend (canProcess_of_encoded hC hr h.linked.canReceiver)
    ((processReceive_of_expected hC hr h.linked.mirrors hparse h.receiver).trans haccept)
    ⟨rfl, hquiet.mailbox, hquiet.timer, hquiet.idle, hquiet.outbound⟩
  exact ⟨_, _, _, exchange_of_next ha hb, congrArg (fun x => b.inbound ++ [x]) hwhole, rfl, h.outbound, rfl, rfl⟩

variable (hmore : consecutiveChunk a.C < a.txBuffer.length)
include hmore

/-- A chunk moves from the sender's part to the receiver's. -/
theorem InTransfer.parts_after_chunk :
    b.rxBuffer ++ a.txBuffer.take (consecutiveChunk a.C) ++ a.txBuffer.drop (consecutiveChunk a.C) = m ∧
    (a.txBuffer.drop (consecutiveChunk a.C)).length < a.txBuffer.length := by
  have := consecutiveChunk_pos h.linked.invSender.config
  rw [List.append_assoc, List.take_append_drop, List.length_drop]
  exact ⟨h.parts, by omega⟩

variable (hr : encodeRaw a.C (.consecutive a.txSeqNum (a.txBuffer.take (consecutiveChunk a.C))) = .ok r)
include hr

/-- A whole chunk is accepted as it was sent, and bytes are still missing after it. -/
theorem InTransfer.receives_chunk :
    canProcess t (some r) b ∧
    processReceive (some r) (atOp t b) = acceptConsecutive (a.txBuffer.take (consecutiveChunk a.C)) (atOp t b) ∧
    b.rxBuffer.length + (a.txBuffer.take (consecutiveChunk a.C)).length < b.rxFrameLen := by
  have hC := h.linked.invSender.config
  have hparse := parse_consecutive_of_full hC a.txSeqNum hmore.le
  rw [← Except.ok.inj (hr.symm.trans (encodeRaw_consecutive hC ..)), h.sequence] at hparse
  refine ⟨canProcess_of_encoded hC hr h.linked.canReceiver, processReceive_of_expected hC hr h.linked.mirrors hparse h.receiver, ?_⟩
  rw [h.missing, List.length_take, Nat.min_eq_left hmore.le]
  omega

/-- The frame that ends a block: the receiver answers with a new grant, for which the sender waits (R240, R274). -/
theorem InTransfer.blockEndRound (hfull : b.C.blocksize.toNat ≠ 0 ∧ b.C.blocksize.toNat ≤ b.rxBlockCounter + 1)
    (ha : exec (.process t toA) a = .next { granted b waits fcTimer pacing (atOp t a) with
      txBuffer := a.txBuffer.drop (consecutiveChunk a.C), txSeqNum := a.txSeqNum + 1
      timerTxStmin := ⟨true, t, 1000 * b.C.stminMs.toNat⟩, txBlockCounter := b.rxBlockCounter + 1, txFrame := some r
      txState := .waitFC, timerRxFC := ⟨true, t, 1000 * a.C.fcTimeoutMs⟩ }) :
    ∃ a' b' f, exchange t a b toA = some (a', b', f) ∧ GoesOn m gap (t + gap) a b a' b' f := by
  obtain ⟨hcan, hrx, hmissing⟩ := h.receives_chunk hmore hr
  have hb := exec_process_of_pending hcan (hrx.trans (acceptConsecutive_of_blockEnd (s := atOp t b) hmissing hfull))
    h.linked.invReceiver.config rfl
  obtain ⟨hparts, hshorter⟩ := h.parts_after_chunk hmore
  have hquiet := h.receiver.quiet
  exact ⟨_, _, _, exchange_of_next ha hb, ⟨h.linked.after ha hb, h.idle, h.mailbox, h.outbound,
    ⟨⟨rfl, hquiet.mailbox, hquiet.timer, hquiet.idle, hquiet.outbound⟩, h.receiver.waits,
      not_deadlinePassed_of_prompt h.linked.prompt⟩, hparts, h.total, congrArg (· + 1) h.sequence, .inl ⟨rfl, rfl, rfl⟩⟩,
    hshorter, rfl, rfl⟩

/-- A frame in mid-block: the receiver says nothing, and the sender's pacing is over at the next round. -/
theorem InTransfer.midBlockRound (hopen : ¬(b.C.blocksize.toNat ≠ 0 ∧ b.C.blocksize.toNat ≤ b.rxBlockCounter + 1))
    (htimer : fcTimer.running = false)
    (ha : exec (.process t toA) a = .next { granted b waits fcTimer pacing (atOp t a) with
      txBuffer := a.txBuffer.drop (consecutiveChunk a.C), txSeqNum := a.txSeqNum + 1
      timerTxStmin := ⟨true, t, 1000 * b.C.stminMs.toNat⟩, txBlockCounter := b.rxBlockCounter + 1
      txFrame := some r }) :
    ∃ a' b' f, exchange t a b toA = some (a', b', f) ∧ GoesOn m gap (t + gap) a b a' b' f := by
  obtain ⟨hcan, hrx, hmissing⟩ := h.receives_chunk hmore hr
  have hquiet := h.receiver.quiet
  have hb := exec_process_of_nothingToSend hcan
    (hrx.trans (acceptConsecutive_of_midBlock (s := atOp t b) hmissing hopen))
    ⟨hquiet.pending, hquiet.mailbox, hquiet.timer, hquiet.idle, hquiet.outbound⟩
  have helapsed : expired ⟨true, t, 1000 * b.C.stminMs.toNat⟩ (t + gap) = true :=
    (expired_armTimer _ _ _).2 (Nat.add_le_add_left h.linked.paced t)
  obtain ⟨hparts, hshorter⟩ := h.parts_after_chunk hmore
  exact ⟨_, _, _, exchange_of_next ha hb, ⟨h.linked.after ha hb, h.idle, h.mailbox, h.outbound,
    ⟨⟨hquiet.pending, hquiet.mailbox, hquiet.timer, hquiet.idle, hquiet.outbound⟩, h.receiver.waits,
      not_deadlinePassed_of_prompt h.linked.prompt⟩, hparts, h.total, congrArg (· + 1) h.sequence,
    .inr ⟨rfl, rfl, htimer, helapsed⟩⟩, hshorter, rfl, rfl⟩

end

/-- One round: the cases of R274 at the sender, and those of R240 at the receiver, which its grant keeps in step. -/
theorem InTransfer.round {m : Bytes} {gap t : Nat} {a b : State} {toA : Option RawFrame} (h : InTransfer m gap t a b toA) :
    ∃ a' b' f, exchange t a b toA = some (a', b', f) ∧
      (Arrived m a b a' b' ∨ GoesOn m gap (t + gap) a b a' b' f) := by
  obtain ⟨waits, fcTimer, pacing, htimer, ha⟩ := h.exec_sender
  obtain ⟨a', ha'⟩ := emitConsecutive_answers (s := granted b waits fcTimer pacing (atOp t a)) h.linked.invSender.config
  rw [ha', phaseOutcome] at ha
  obtain ⟨r, hr, ⟨hlast, rfl⟩ | ⟨hmore, hfull, rfl⟩ | ⟨hmore, hopen, rfl⟩⟩ := emitConsecutive_cases ha'
  · obtain ⟨a', b', f, hround, harrived⟩ := h.lastRound hlast hr ha
    exact ⟨a', b', f, hround, .inl harrived⟩
  · obtain ⟨a', b', f, hround, hon⟩ := h.blockEndRound hmore hr hfull ha
    exact ⟨a', b', f, hround, .inr hon⟩
  · obtain ⟨a', b', f, hround, hon⟩ := h.midBlockRound hmore hr hopen htimer ha
    exact ⟨a', b', f, hround, .inr hon⟩

/-- A transfer ends with the message at the receiver, since every round leaves less to send. -/
theorem InTransfer.arrives {m : Bytes} {gap t : Nat} {a b : State} {toA : Option RawFrame}
    (h : InTransfer m gap t a b toA) :
    ∃ n a' b', exchanges gap n t a b toA = some (a', b') ∧ Arrived m a b a' b' := by
  induction hlength : a.txBuffer.length using Nat.strong_induction_on generalizing t a b toA with
  | _ k ih =>
    obtain ⟨a', b', f, hround, harrived | ⟨htransfer, hshorter, ha, hb⟩⟩ := h.round
    · exact ⟨1, a', b', exchanges_succ hround, harrived⟩
    · obtain ⟨n, a2, b2, hrounds, harrived⟩ := ih _ (hlength ▸ hshorter) htransfer rfl
      rw [Arrived, ha, hb] at harrived
      exact ⟨n + 1, a2, b2, (exchanges_succ hround).trans hrounds, harrived⟩

end Sys2Proof.Machine
end

section
/-! T2: the first round of a message, which is the only one or begins a transfer (R270); and the statement on the loopback. -/

namespace Sys2Proof.Machine

/-- The loopback before its first round: `m` alone to send, and a receiver with nothing to do. -/
structure Starting (m : Bytes) (gap t : Nat) (a b : State) : Prop where
  linked   : Linked gap t a b
  rxIdle   : a.rxState = .idle
  txIdle   : a.txState = .idle
  mailbox  : a.lastFlowControlFrame = none
  outbound : a.outbound = [m]
  quiet    : NothingToSend b
  peerIdle : b.rxState = .idle

section
variable {m : Bytes} {gap t : Nat} {a b : State} (h : Starting m gap t a b)
include h

theorem Starting.message_length : 1 ≤ m.length ∧ m.length ≤ Config.msgLenMax :=
  h.linked.invSender.queues.outbound m (by simp [h.outbound])

theorem Starting.exec_sender : exec (.process t none) a = phaseOutcome (startNext (atOp t a)) := by
  have htimer := h.linked.invSender.tx.timerRxFC_of_idle h.txIdle
  have hreach : reachesStepFour t a :=
    ⟨h.linked.invSender.rx.pending_of_idle h.rxIdle, h.mailbox, fun ⟨hrunning, _⟩ => by simp [htimer] at hrunning⟩
  rw [exec_process h.linked.canSender, processReceive_none, checkCfTimeout_of_idle (s := atOp t a) h.rxIdle,
    processTransmit_of_reachesStepFour hreach, driveState_of_idle (s := atOp t a) h.txIdle]

/-- A message that fits arrives in one round (T1). -/
theorem Starting.singleRound (hfits : fitsSingle a.C m.length = true) :
    ∃ a' b' f, exchange t a b none = some (a', b', f) ∧ Arrived m a b a' b' := by
  have hC := h.linked.invSender.config
  obtain ⟨hlive, -, hclock⟩ := h.linked.canReceiver
  have ha := h.exec_sender
  rw [startNext_of_fits (s := atOp t a) hC h.outbound h.message_length.1 hfits, phaseOutcome] at ha
  obtain ⟨hcan, hrx⟩ := execProcessRx_eq_next_iff.1
    (exec_processRx_of_single hC (encodeRaw_single hC h.message_length.1 hfits) hlive hclock h.peerIdle h.linked.mirrors)
  have hb := exec_process_of_nothingToSend hcan hrx.symm
    ⟨rfl, h.quiet.mailbox, h.quiet.timer, h.quiet.idle, h.quiet.outbound⟩
  exact ⟨_, _, _, exchange_of_next ha hb, rfl, h.txIdle, rfl, rfl, rfl⟩

/-- A longer one begins a transfer: the receiver answers the FirstFrame with its first grant (R236, R271). -/
theorem Starting.firstRound (hlong : fitsSingle a.C m.length = false) :
    ∃ a' b' f, exchange t a b none = some (a', b', f) ∧ InTransfer m gap (t + gap) a' b' f ∧
      a'.inbound = a.inbound ∧ b'.inbound = b.inbound := by
  have hC := h.linked.invSender.config
  have hchunk := (firstChunk_lt hC hlong).1
  have hr := encodeRaw_first hC h.message_length.2 hlong
  have ha := h.exec_sender
  rw [startNext_of_not_fits (s := atOp t a) hC h.outbound h.message_length.2 hlong, phaseOutcome] at ha
  have hrx := processReceive_of_encoded (s := atOp t b) hC hr h.linked.mirrors (parse_first hC h.message_length.2 hlong)
  rw [checkCfTimeout_of_idle (s := atOp t b) h.peerIdle, receiveFrame,
    receiveFirst_of_lt (by rw [List.length_take]; omega)] at hrx
  have hb := exec_process_of_pending (canProcess_of_encoded hC hr h.linked.canReceiver) hrx h.linked.invReceiver.config rfl
  refine ⟨_, _, _, exchange_of_next ha hb, ⟨h.linked.after ha hb, h.rxIdle, h.mailbox, rfl,
    ⟨⟨rfl, h.quiet.mailbox, h.quiet.timer, h.quiet.idle, h.quiet.outbound⟩, rfl,
      not_deadlinePassed_of_prompt h.linked.prompt⟩, List.take_append_drop .., rfl, rfl, .inl ⟨rfl, rfl, rfl⟩⟩, rfl, rfl⟩

/-- T2: in one round, or in a first round and a transfer. -/
theorem Starting.arrives : ∃ n a' b', exchanges gap n t a b none = some (a', b') ∧ Arrived m a b a' b' := by
  cases hfits : fitsSingle a.C m.length with
  | true =>
    obtain ⟨a', b', f, hround, harrived⟩ := h.singleRound hfits
    exact ⟨1, a', b', exchanges_succ hround, harrived⟩
  | false =>
    obtain ⟨a1, b1, f, hround, htransfer, ha, hb⟩ := h.firstRound hfits
    obtain ⟨n, a', b', hrounds, harrived⟩ := htransfer.arrives
    rw [Arrived, ha, hb] at harrived
    exact ⟨n + 1, a', b', (exchanges_succ hround).trans hrounds, harrived⟩

end

/-- Settles O59: the hypotheses are those of a first round; a message that fits arrives in it, a longer one by the transfer it
begins. -/
theorem messageLoopback : Obligations.MessageLoopback := by
  intro gap t m a b hinva hinvb hlivea hliveb hclocka hclockb hquiet htx hrx _ hmail hout hpeer hpaced hprompt
  obtain ⟨hrxb, htxb, houtb, hpendingb, hmailb⟩ := hquiet
  have hlinked : Linked gap t a b :=
    ⟨hinva, hinvb, ⟨hlivea, rfl, hclocka⟩, ⟨hliveb, rfl, hclockb⟩, hpeer, hpaced, hprompt⟩
  have hnothing : NothingToSend b := ⟨hpendingb, hmailb, hinvb.tx.timerRxFC_of_idle htxb, htxb, houtb⟩
  exact Starting.arrives ⟨hlinked, hrx, htx, hmail, hout, hnothing, hrxb⟩

end Sys2Proof.Machine
end
